-- ==== Sys2Proof/Word.lean ====
section
/-! DEFINITION. The word types of the unit (00_scope.md rules R10, R11): bit 0 is the least significant bit. -/

namespace Sys2Proof

/-- A command word, the content of an X register or of a control register: 32 raw bits (R11, R21, R90). -/
abbrev Word := BitVec 32

/-- A halfword of buffer memory and a channel value, the `u16` of R10 (R60, R130). -/
abbrev Half := BitVec 16

/-- A byte of the host's view of buffer memory (R66) and the width of `FCAUSE` (R35). -/
abbrev Byte := BitVec 8

end Sys2Proof
end

