-- ==== Sys2Proof/Syntax.lean ====
section
/-! DEFINITION. The commands of `TGPU-C v1`: one constructor per row of spec/opcode_table.json (30_encoding.md rule R99).
Operands carry their range in their type: a register number is 0 … 7 and a channel is red, green or blue (R94). -/

namespace Sys2Proof

/-- The number of an X register, `X0 … X7` (R21, R94). -/
abbrev XReg := Fin 8

/-- The number of a C register, `C0 … C7` (R22, R94). -/
abbrev CReg := Fin 8

/-- A channel of a Color Value: 0 red, 1 green, 2 blue (R22, R94). -/
inductive Chan
  | red
  | green
  | blue
  deriving DecidableEq, Repr

/-- The base select `bsel` of the memory commands: 0 `SRC`, 1 `DST` (R99, R296). -/
inductive Base
  | src
  | dst
  deriving DecidableEq, Repr

/-- The element kind `K` of the vector operations: 0 RAW, 1 PIX (R99, R231). -/
inductive Elem
  | raw
  | pix
  deriving DecidableEq, Repr

/-- The 33 commands, operands in the order of rule R102: destination first, then the fields A, B, C, E, then the
modifier. -/
inductive Instr
  /-- R270 -/
  | nop
  /-- R271 -/
  | urst
  /-- R272 -/
  | xrd (a : XReg)
  /-- R275 -/
  | xli (d : XReg) (imm : Half)
  /-- R276 -/
  | xlh (d : XReg) (imm : Half)
  /-- R277 -/
  | xmov (d a : XReg)
  /-- R280 -/
  | cli (d : CReg) (ch : Chan) (imm : Half)
  /-- R281 -/
  | cmov (d a : CReg)
  /-- R282 -/
  | cget (d : XReg) (a : CReg) (ch : Chan)
  /-- R283 -/
  | cset (d : CReg) (a : XReg) (ch : Chan)
  /-- R292: `d` is the X register that holds the value. -/
  | crw (d : XReg) (cr : Half)
  /-- R293 -/
  | crr (d : XReg) (cr : Half)
  /-- R141 -/
  | cadd (d a b : CReg)
  /-- R142 -/
  | csub (d a b : CReg)
  /-- R143 -/
  | cmul (d a b : CReg)
  /-- R146: `f` is the X register that holds the factor. -/
  | cscale (d a : CReg) (f : XReg)
  /-- R150: `t` is the X register that holds the interpolation parameter. -/
  | clerp (d a b : CReg) (t : XReg)
  /-- R152 -/
  | ceq (d : XReg) (a b : CReg)
  /-- R174 -/
  | index (d n col ring : XReg)
  /-- R182 -/
  | edge (d ox oy fx fy : XReg) (ch : Chan)
  /-- R297 -/
  | pld (d : CReg) (a : XReg) (base : Base)
  /-- R298: `d` is the C register stored. -/
  | pst (d : CReg) (a : XReg) (base : Base)
  /-- R299 -/
  | hld (d a : XReg) (base : Base)
  /-- R300: `d` is the X register stored. -/
  | hst (d a : XReg) (base : Base)
  /-- R205 -/
  | conv
  /-- R215 -/
  | blur
  /-- R235 -/
  | vcopy (n : XReg) (k : Elem)
  /-- R238 -/
  | vtile (n m : XReg) (k : Elem)
  /-- R241: `d` is the C register that holds the colour. -/
  | vfill (d : CReg) (n : XReg)
  /-- R244 -/
  | vadd (n : XReg)
  /-- R247 -/
  | vfade (n amt : XReg) (k : Elem)
  /-- R250 -/
  | vbrt (n amt : XReg) (k : Elem)
  /-- R260 -/
  | vblur1 (n amt : XReg) (k : Elem)
  deriving DecidableEq, Repr

end Sys2Proof
end

