-- ==== Sys2Proof/WellFormed.lean ====
section
/-! DEFINITION. When a command word is legal (30_encoding.md rules R94, R100, R101), read off spec/opcode_table.json:
`match`, `mask` and the channel constraint of each row. It knows nothing of the decoder, which is written from the
formats and the field table of rules R91-R99; that the two agree is a statement. An `Instr` needs no check of its own:
the range of every operand is in its type (R94). -/

namespace Sys2Proof.WellFormed

/-- One row of spec/opcode_table.json: its `match`, its `mask`, and where its channel field starts if the row has the
constraint `ch ≠ 3` (R101 step 4). -/
structure Row where
  pattern : Word
  mask : Word
  chanAt : Option Nat
  deriving DecidableEq, Repr

/-- The 33 rows of spec/opcode_table.json, in its order. -/
def table : List Row :=
  [
    ⟨0x01000000#32, 0xFFFFFFFF#32, none⟩, -- NOP
    ⟨0x02000000#32, 0xFFFFFFFF#32, none⟩, -- URST
    ⟨0x03000000#32, 0xFFF8FFFF#32, none⟩, -- XRD
    ⟨0x10000000#32, 0xFF8F0000#32, none⟩, -- XLI
    ⟨0x11000000#32, 0xFF8F0000#32, none⟩, -- XLH
    ⟨0x12000000#32, 0xFF88FFFF#32, none⟩, -- XMOV
    ⟨0x13000000#32, 0xFF8C0000#32, some 16⟩, -- CLI
    ⟨0x14000000#32, 0xFF88FFFF#32, none⟩, -- CMOV
    ⟨0x15000000#32, 0xFF88FFFC#32, some 0⟩, -- CGET
    ⟨0x16000000#32, 0xFF88FFFC#32, some 0⟩, -- CSET
    ⟨0x17000000#32, 0xFF8F0000#32, none⟩, -- CRW
    ⟨0x18000000#32, 0xFF8F0000#32, none⟩, -- CRR
    ⟨0x20000000#32, 0xFF888FFF#32, none⟩, -- CADD
    ⟨0x21000000#32, 0xFF888FFF#32, none⟩, -- CSUB
    ⟨0x22000000#32, 0xFF888FFF#32, none⟩, -- CMUL
    ⟨0x23000000#32, 0xFF888FFF#32, none⟩, -- CSCALE
    ⟨0x24000000#32, 0xFF8888FF#32, none⟩, -- CLERP
    ⟨0x25000000#32, 0xFF888FFF#32, none⟩, -- CEQ
    ⟨0x30000000#32, 0xFF8888FF#32, none⟩, -- INDEX
    ⟨0x31000000#32, 0xFF88888C#32, some 0⟩, -- EDGE
    ⟨0x38000000#32, 0xFF88FFFE#32, none⟩, -- PLD
    ⟨0x39000000#32, 0xFF88FFFE#32, none⟩, -- PST
    ⟨0x3A000000#32, 0xFF88FFFE#32, none⟩, -- HLD
    ⟨0x3B000000#32, 0xFF88FFFE#32, none⟩, -- HST
    ⟨0x40000000#32, 0xFFFFFFFF#32, none⟩, -- CONV
    ⟨0x41000000#32, 0xFFFFFFFF#32, none⟩, -- BLUR
    ⟨0x50000000#32, 0xFFF8FFFE#32, none⟩, -- VCOPY
    ⟨0x51000000#32, 0xFFF88FFE#32, none⟩, -- VTILE
    ⟨0x52000000#32, 0xFF88FFFF#32, none⟩, -- VFILL
    ⟨0x53000000#32, 0xFFF8FFFF#32, none⟩, -- VADD
    ⟨0x54000000#32, 0xFFF88FFE#32, none⟩, -- VFADE
    ⟨0x55000000#32, 0xFFF88FFE#32, none⟩, -- VBRT
    ⟨0x56000000#32, 0xFFF88FFE#32, none⟩ -- VBLUR1
  ]

/-- R101 step 2: the opcode `W[31:24]` is one of the table's. -/
def opAssigned (w : Word) : Bool :=
  table.any fun r => r.pattern.extractLsb' 24 8 == w.extractLsb' 24 8

/-- R101 step 3: every bit the row's `mask` covers equals the row's `match`. -/
def Row.fits (r : Row) (w : Word) : Bool :=
  w &&& r.mask == r.pattern

/-- R101 step 4: the row's channel field, if it has one, is not 3. -/
def Row.chanOk (r : Row) (w : Word) : Bool :=
  match r.chanAt with
  | none => true
  | some k => w.extractLsb' k 2 != 3#2

/-- R101 steps 2 and 3: the word fits a row of its own opcode; the `mask` covers the opcode, the top bit of every used
register field and every bit that must be zero. -/
def fixedBitsOk (w : Word) : Bool :=
  table.any fun r => r.fits w

/-- R100, R101: the word is one of the 33 commands. -/
def legal (w : Word) : Bool :=
  table.any fun r => r.fits w && r.chanOk w

end Sys2Proof.WellFormed
end

