-- ==== Sys2Proof/Decode.lean ====
section
/-! DEFINITION. The decoder, total on all 2^32 words and rejecting by name, and the encoder, both written from the
formats N, R, I and the field table of 30_encoding.md (rules R90-R95, R99-R101). -/

namespace Sys2Proof.Codec

/-- Why a command word is illegal (R100); every reason raises the same `Fault(ILLEGAL_CMD)`. -/
inductive Illegal
  /-- `OP` is not in the table of R99. -/
  | unknownOp
  /-- A used register field holds 8 … 15 (R94). -/
  | registerAbove7
  /-- An unused field, an unused bit of `M`, or `SEL` of a command other than CLI is not zero (R94). -/
  | unusedNotZero
  /-- A channel number is 3 (R94). -/
  | channelThree
  deriving DecidableEq, Repr

/-- `OP = W[31:24]` (R90). -/
def opOf (w : Word) : BitVec 8 := w.extractLsb' 24 8
/-- `D = W[23:20]` (R92, R93). -/
def fieldD (w : Word) : BitVec 4 := w.extractLsb' 20 4
/-- `A = W[19:16]` (R92), and `SEL` of format I (R93). -/
def fieldA (w : Word) : BitVec 4 := w.extractLsb' 16 4
/-- `B = W[15:12]` (R92). -/
def fieldB (w : Word) : BitVec 4 := w.extractLsb' 12 4
/-- `C = W[11:8]` (R92). -/
def fieldC (w : Word) : BitVec 4 := w.extractLsb' 8 4
/-- `E = W[7:4]` (R92). -/
def fieldE (w : Word) : BitVec 4 := w.extractLsb' 4 4
/-- `M = W[3:0]` (R92). -/
def fieldM (w : Word) : BitVec 4 := w.extractLsb' 0 4
/-- `IMM = W[15:0]` (R93). -/
def immOf (w : Word) : Half := w.extractLsb' 0 16

/-- A used register field: 0 … 7 name a register (R94). -/
def reg (f : BitVec 4) : Except Illegal (Fin 8) :=
  if h : f.toNat < 8 then .ok ⟨f.toNat, h⟩ else .error .registerAbove7

/-- A field that must be zero (R94). -/
def unused (f : BitVec 4) : Except Illegal Unit :=
  if f = 0#4 then .ok () else .error .unusedNotZero

/-- A channel field: bits [1:0] are the channel, bits [3:2] must be zero (R92-R94). -/
def chan (f : BitVec 4) : Except Illegal Chan :=
  if f = 0#4 then .ok .red
  else if f = 1#4 then .ok .green
  else if f = 2#4 then .ok .blue
  else if f = 3#4 then .error .channelThree
  else .error .unusedNotZero

/-- A base select field: bit 0 is `bsel`, bits [3:1] must be zero (R92, R99). -/
def bsel (f : BitVec 4) : Except Illegal Base :=
  if f = 0#4 then .ok .src else if f = 1#4 then .ok .dst else .error .unusedNotZero

/-- An element kind field: bit 0 is `K`, bits [3:1] must be zero (R92, R99). -/
def elem (f : BitVec 4) : Except Illegal Elem :=
  if f = 0#4 then .ok .raw else if f = 1#4 then .ok .pix else .error .unusedNotZero

/-- Format N (R91): `W[23:0] = 0`. -/
def formatN (w : Word) (i : Instr) : Except Illegal Instr :=
  if w.extractLsb' 0 24 = 0#24 then .ok i else .error .unusedNotZero

/-- A register number as a 4-bit field. -/
def ofReg (r : Fin 8) : BitVec 4 := BitVec.ofNat 4 r.val

/-- A channel number as a 4-bit field (R94). -/
def ofChan : Chan → BitVec 4
  | .red => 0#4
  | .green => 1#4
  | .blue => 2#4

/-- `bsel` as the field `M` (R99). -/
def ofBase : Base → BitVec 4
  | .src => 0#4
  | .dst => 1#4

/-- `K` as the field `M` (R99). -/
def ofElem : Elem → BitVec 4
  | .raw => 0#4
  | .pix => 1#4

/-- A word of format R (R92), each field at its lowest bit; format N (R91) is the one with every field zero. -/
def packR (op : BitVec 8) (d a b c e m : BitVec 4) : Word :=
  op.zeroExtend 32 <<< 24 ||| d.zeroExtend 32 <<< 20 ||| a.zeroExtend 32 <<< 16 ||| b.zeroExtend 32 <<< 12 |||
    c.zeroExtend 32 <<< 8 ||| e.zeroExtend 32 <<< 4 ||| m.zeroExtend 32

/-- A word of format I (R93). -/
def packI (op : BitVec 8) (d sel : BitVec 4) (imm : Half) : Word :=
  op.zeroExtend 32 <<< 24 ||| d.zeroExtend 32 <<< 20 ||| sel.zeroExtend 32 <<< 16 ||| imm.zeroExtend 32

end Sys2Proof.Codec

namespace Sys2Proof

open Codec

/-- R101 steps 2 to 5, on the fields each row of R99 uses; a field the row leaves out must be zero. Step 1, the discard
while `FLT = 1`, comes before decoding and stands in `Machine.present`. -/
def decode (w : Word) : Except Illegal Instr :=
  match opOf w with
  | 0x01#8 => formatN w .nop
  | 0x02#8 => formatN w .urst
  | 0x03#8 => do
    unused (fieldD w)
    let a ← reg (fieldA w)
    unused (fieldB w); unused (fieldC w); unused (fieldE w); unused (fieldM w)
    return .xrd a
  | 0x10#8 => do
    let d ← reg (fieldD w)
    unused (fieldA w)
    return .xli d (immOf w)
  | 0x11#8 => do
    let d ← reg (fieldD w)
    unused (fieldA w)
    return .xlh d (immOf w)
  | 0x12#8 => do
    let d ← reg (fieldD w)
    let a ← reg (fieldA w)
    unused (fieldB w); unused (fieldC w); unused (fieldE w); unused (fieldM w)
    return .xmov d a
  | 0x13#8 => do
    let d ← reg (fieldD w)
    let ch ← chan (fieldA w)
    return .cli d ch (immOf w)
  | 0x14#8 => do
    let d ← reg (fieldD w)
    let a ← reg (fieldA w)
    unused (fieldB w); unused (fieldC w); unused (fieldE w); unused (fieldM w)
    return .cmov d a
  | 0x15#8 => do
    let d ← reg (fieldD w)
    let a ← reg (fieldA w)
    unused (fieldB w); unused (fieldC w); unused (fieldE w)
    let ch ← chan (fieldM w)
    return .cget d a ch
  | 0x16#8 => do
    let d ← reg (fieldD w)
    let a ← reg (fieldA w)
    unused (fieldB w); unused (fieldC w); unused (fieldE w)
    let ch ← chan (fieldM w)
    return .cset d a ch
  | 0x17#8 => do
    let d ← reg (fieldD w)
    unused (fieldA w)
    return .crw d (immOf w)
  | 0x18#8 => do
    let d ← reg (fieldD w)
    unused (fieldA w)
    return .crr d (immOf w)
  | 0x20#8 => do
    let d ← reg (fieldD w)
    let a ← reg (fieldA w)
    let b ← reg (fieldB w)
    unused (fieldC w); unused (fieldE w); unused (fieldM w)
    return .cadd d a b
  | 0x21#8 => do
    let d ← reg (fieldD w)
    let a ← reg (fieldA w)
    let b ← reg (fieldB w)
    unused (fieldC w); unused (fieldE w); unused (fieldM w)
    return .csub d a b
  | 0x22#8 => do
    let d ← reg (fieldD w)
    let a ← reg (fieldA w)
    let b ← reg (fieldB w)
    unused (fieldC w); unused (fieldE w); unused (fieldM w)
    return .cmul d a b
  | 0x23#8 => do
    let d ← reg (fieldD w)
    let a ← reg (fieldA w)
    let f ← reg (fieldB w)
    unused (fieldC w); unused (fieldE w); unused (fieldM w)
    return .cscale d a f
  | 0x24#8 => do
    let d ← reg (fieldD w)
    let a ← reg (fieldA w)
    let b ← reg (fieldB w)
    let t ← reg (fieldC w)
    unused (fieldE w); unused (fieldM w)
    return .clerp d a b t
  | 0x25#8 => do
    let d ← reg (fieldD w)
    let a ← reg (fieldA w)
    let b ← reg (fieldB w)
    unused (fieldC w); unused (fieldE w); unused (fieldM w)
    return .ceq d a b
  | 0x30#8 => do
    let d ← reg (fieldD w)
    let n ← reg (fieldA w)
    let col ← reg (fieldB w)
    let ring ← reg (fieldC w)
    unused (fieldE w); unused (fieldM w)
    return .index d n col ring
  | 0x31#8 => do
    let d ← reg (fieldD w)
    let ox ← reg (fieldA w)
    let oy ← reg (fieldB w)
    let fx ← reg (fieldC w)
    let fy ← reg (fieldE w)
    let ch ← chan (fieldM w)
    return .edge d ox oy fx fy ch
  | 0x38#8 => do
    let d ← reg (fieldD w)
    let a ← reg (fieldA w)
    unused (fieldB w); unused (fieldC w); unused (fieldE w)
    let base ← bsel (fieldM w)
    return .pld d a base
  | 0x39#8 => do
    let d ← reg (fieldD w)
    let a ← reg (fieldA w)
    unused (fieldB w); unused (fieldC w); unused (fieldE w)
    let base ← bsel (fieldM w)
    return .pst d a base
  | 0x3A#8 => do
    let d ← reg (fieldD w)
    let a ← reg (fieldA w)
    unused (fieldB w); unused (fieldC w); unused (fieldE w)
    let base ← bsel (fieldM w)
    return .hld d a base
  | 0x3B#8 => do
    let d ← reg (fieldD w)
    let a ← reg (fieldA w)
    unused (fieldB w); unused (fieldC w); unused (fieldE w)
    let base ← bsel (fieldM w)
    return .hst d a base
  | 0x40#8 => formatN w .conv
  | 0x41#8 => formatN w .blur
  | 0x50#8 => do
    unused (fieldD w)
    let n ← reg (fieldA w)
    unused (fieldB w); unused (fieldC w); unused (fieldE w)
    let k ← elem (fieldM w)
    return .vcopy n k
  | 0x51#8 => do
    unused (fieldD w)
    let n ← reg (fieldA w)
    let m ← reg (fieldB w)
    unused (fieldC w); unused (fieldE w)
    let k ← elem (fieldM w)
    return .vtile n m k
  | 0x52#8 => do
    let d ← reg (fieldD w)
    let n ← reg (fieldA w)
    unused (fieldB w); unused (fieldC w); unused (fieldE w); unused (fieldM w)
    return .vfill d n
  | 0x53#8 => do
    unused (fieldD w)
    let n ← reg (fieldA w)
    unused (fieldB w); unused (fieldC w); unused (fieldE w); unused (fieldM w)
    return .vadd n
  | 0x54#8 => do
    unused (fieldD w)
    let n ← reg (fieldA w)
    let amt ← reg (fieldB w)
    unused (fieldC w); unused (fieldE w)
    let k ← elem (fieldM w)
    return .vfade n amt k
  | 0x55#8 => do
    unused (fieldD w)
    let n ← reg (fieldA w)
    let amt ← reg (fieldB w)
    unused (fieldC w); unused (fieldE w)
    let k ← elem (fieldM w)
    return .vbrt n amt k
  | 0x56#8 => do
    unused (fieldD w)
    let n ← reg (fieldA w)
    let amt ← reg (fieldB w)
    unused (fieldC w); unused (fieldE w)
    let k ← elem (fieldM w)
    return .vblur1 n amt k
  | _ => .error .unknownOp

/-- The word of a command, from the formats of R91-R93 and the field table of R99. -/
def encode : Instr → Word
  | .nop => packR 0x01#8 0#4 0#4 0#4 0#4 0#4 0#4
  | .urst => packR 0x02#8 0#4 0#4 0#4 0#4 0#4 0#4
  | .xrd a => packR 0x03#8 0#4 (ofReg a) 0#4 0#4 0#4 0#4
  | .xli d imm => packI 0x10#8 (ofReg d) 0#4 imm
  | .xlh d imm => packI 0x11#8 (ofReg d) 0#4 imm
  | .xmov d a => packR 0x12#8 (ofReg d) (ofReg a) 0#4 0#4 0#4 0#4
  | .cli d ch imm => packI 0x13#8 (ofReg d) (ofChan ch) imm
  | .cmov d a => packR 0x14#8 (ofReg d) (ofReg a) 0#4 0#4 0#4 0#4
  | .cget d a ch => packR 0x15#8 (ofReg d) (ofReg a) 0#4 0#4 0#4 (ofChan ch)
  | .cset d a ch => packR 0x16#8 (ofReg d) (ofReg a) 0#4 0#4 0#4 (ofChan ch)
  | .crw d cr => packI 0x17#8 (ofReg d) 0#4 cr
  | .crr d cr => packI 0x18#8 (ofReg d) 0#4 cr
  | .cadd d a b => packR 0x20#8 (ofReg d) (ofReg a) (ofReg b) 0#4 0#4 0#4
  | .csub d a b => packR 0x21#8 (ofReg d) (ofReg a) (ofReg b) 0#4 0#4 0#4
  | .cmul d a b => packR 0x22#8 (ofReg d) (ofReg a) (ofReg b) 0#4 0#4 0#4
  | .cscale d a f => packR 0x23#8 (ofReg d) (ofReg a) (ofReg f) 0#4 0#4 0#4
  | .clerp d a b t => packR 0x24#8 (ofReg d) (ofReg a) (ofReg b) (ofReg t) 0#4 0#4
  | .ceq d a b => packR 0x25#8 (ofReg d) (ofReg a) (ofReg b) 0#4 0#4 0#4
  | .index d n col ring => packR 0x30#8 (ofReg d) (ofReg n) (ofReg col) (ofReg ring) 0#4 0#4
  | .edge d ox oy fx fy ch => packR 0x31#8 (ofReg d) (ofReg ox) (ofReg oy) (ofReg fx) (ofReg fy) (ofChan ch)
  | .pld d a base => packR 0x38#8 (ofReg d) (ofReg a) 0#4 0#4 0#4 (ofBase base)
  | .pst d a base => packR 0x39#8 (ofReg d) (ofReg a) 0#4 0#4 0#4 (ofBase base)
  | .hld d a base => packR 0x3A#8 (ofReg d) (ofReg a) 0#4 0#4 0#4 (ofBase base)
  | .hst d a base => packR 0x3B#8 (ofReg d) (ofReg a) 0#4 0#4 0#4 (ofBase base)
  | .conv => packR 0x40#8 0#4 0#4 0#4 0#4 0#4 0#4
  | .blur => packR 0x41#8 0#4 0#4 0#4 0#4 0#4 0#4
  | .vcopy n k => packR 0x50#8 0#4 (ofReg n) 0#4 0#4 0#4 (ofElem k)
  | .vtile n m k => packR 0x51#8 0#4 (ofReg n) (ofReg m) 0#4 0#4 (ofElem k)
  | .vfill d n => packR 0x52#8 (ofReg d) (ofReg n) 0#4 0#4 0#4 0#4
  | .vadd n => packR 0x53#8 0#4 (ofReg n) 0#4 0#4 0#4 0#4
  | .vfade n amt k => packR 0x54#8 0#4 (ofReg n) (ofReg amt) 0#4 0#4 (ofElem k)
  | .vbrt n amt k => packR 0x55#8 0#4 (ofReg n) (ofReg amt) 0#4 0#4 (ofElem k)
  | .vblur1 n amt k => packR 0x56#8 0#4 (ofReg n) (ofReg amt) 0#4 0#4 (ofElem k)

/-- The word of which `nbits` bits are given, every bit above them zero (R90: a command is one 32-bit word). -/
def tableWord (nbits w : Nat) : Word := BitVec.ofNat 32 (w % 2 ^ nbits)

/-- The command the decoder reads from a word numbered as spec/opcode_table.json numbers it. The unit is handed the
word whole (R90, R26), so no byte order enters. -/
def decodeTableWord (nbits w : Nat) : Option Instr :=
  match decode (tableWord nbits w) with
  | .ok i => some i
  | .error _ => none

end Sys2Proof
end

