-- ==== Sys2Proof/Config.lean ====
section
/-! DEFINITION. The parameters of 00_scope.md rule R6, fixed for a run (10_state.md rule R37), the byte an unlisted
address reads as, and the one free value of the spec (60_exceptions.md rule R340). -/

namespace Sys2Proof.Config

/-- `CONV_COMBINE` (R6, R206): how the two 1D passes combine. -/
inductive Combine
  | compose
  | sum
  deriving DecidableEq, Repr

/-- `LERP_WEIGHTING` (R6, R150): which operand `t` weights. -/
inductive LerpWeighting
  | tWeightsB
  | tWeightsA
  deriving DecidableEq, Repr

/-- `BYTE_ORDER` (R6, R66): how the host sees a halfword as two bytes. -/
inductive ByteOrder
  | little
  | big
  deriving DecidableEq, Repr

/-- The parameters a run is launched with. `XLEN`, `NX`, `NC` and `CHW` are fixed by R6 and stand in the types;
`SCALE_CORE` and `BLUR1D_WEIGHTS` are functions and stand at the defaults of R136 and R262 (log 2). -/
structure Params where
  /-- `MEM_SIZE`, the number of halfwords of buffer memory, OPEN (R6, R60). -/
  memSize : Nat
  /-- `K_MAX`, the largest kernel length (R6, R32); at most 15 by its type. -/
  kMax : Fin 16
  /-- `EDGE_BLACK_VALUE` (R6, R180). -/
  edgeBlack : Half
  /-- `CONV_COMBINE` (R6, R206). -/
  combine : Combine
  /-- `LERP_WEIGHTING` (R6, R150). -/
  lerp : LerpWeighting
  /-- `BYTE_ORDER` (R6, R66). -/
  byteOrder : ByteOrder
  /-- `TIMER_WIDTH`, the width of the Frame Timer's fields, OPEN (R6, R336). -/
  timerWidth : Nat
  /-- DESIGN CHOICE (log 14): durations below this bound are "well below the clock's wrap period" (R340). -/
  durationBound : Nat
  deriving DecidableEq, Repr

/-- The legal values of R6. -/
def Params.legal (p : Params) : Bool :=
  decide (1 ≤ p.memSize) && decide (p.memSize ≤ 2 ^ 32) && decide (p.kMax.val % 2 = 1) &&
    decide (1 ≤ p.timerWidth) && decide (p.durationBound < 2 ^ 32)

/-- The parameters of `State.reset`: the defaults of R6. DESIGN CHOICE (logs 1, 14) for the three that have none:
`MEM_SIZE` at its largest legal value, `TIMER_WIDTH` 32, the duration bound half the wrap period. -/
def launch : Params where
  memSize := 4294967296
  kMax := 7
  edgeBlack := 0xFFFF#16
  combine := .compose
  lerp := .tWeightsB
  byteOrder := .little
  timerWidth := 32
  durationBound := 2147483648

/-- What a byte of buffer memory that no entry lists reads as. DESIGN CHOICE (log 4): R62 leaves the content at
power-up unspecified; every content is some list of entries over this background. -/
def unlistedByte : Byte := 0#8

/-- FREE VALUE (log 13): the answer of the Interval Timer's `check()` where R340 leaves it unspecified, as a function
of the wraps and clock reading at the check and of the wraps, stamp and duration of the timer. It has no body. -/
opaque intervalUnspecified : Nat → Word → Nat → Word → Nat → Bool

end Sys2Proof.Config
end

