-- ==== Sys2Proof/Machine/State.lean ====
section
/-! DEFINITION. The state: the unit's registers and fault latch (10_state.md rule R20), buffer memory (20_memory.md), the
response, the parameters of the run, the host-side environment (60_exceptions.md rules R335-R340) and the moves the host
still makes (20_memory.md rule R75); its value after reset; and the reasons a step can stop. Plain data throughout. -/

namespace Sys2Proof.Machine

/-- A Color Value: three unsigned 16-bit channels (R22). -/
structure Color where
  r : Half
  g : Half
  b : Half
  deriving DecidableEq, Repr

/-- The control registers of R28. -/
structure Ctl where
  /-- `SRC`, cr 0x0000 (R29). -/
  src : Word
  /-- `DST`, cr 0x0001 (R29). -/
  dst : Word
  /-- `SIZEX`, cr 0x0002, the number of columns (R30). -/
  sizeX : Word
  /-- `SIZEY`, cr 0x0003, the number of rings (R30). -/
  sizeY : Word
  /-- `EDGE`, cr 0x0004, the edge policy in bits [1:0] (R31). -/
  edge : Word
  /-- `KXLEN`, cr 0x0005 (R32). -/
  kxLen : Word
  /-- `KYLEN`, cr 0x0006 (R32). -/
  kyLen : Word
  /-- `KX[i]`, cr 0x0010 + i (R33): a place for every index below the largest legal `K_MAX`; the places at and above the
  run's `K_MAX` are no registers and stay 0 (log 15). -/
  kx : Vector Word 15
  /-- `KY[i]`, cr 0x0020 + i (R33), as `kx`. -/
  ky : Vector Word 15
  deriving DecidableEq, Repr

/-- The status `st` of a response; the value 3 is never produced (R98). -/
inductive Status
  | ok
  | fault
  | discarded
  deriving DecidableEq, Repr

/-- A response `(st, data)` (R98). -/
structure Response where
  st : Status
  data : Word
  deriving DecidableEq, Repr

/-- The nine fault causes, in the order of their codes 0x01 … 0x09 (R311). -/
inductive Cause
  | illegalCmd
  | crNumber
  | crValue
  | ringRange
  | edgeTwoAxis
  | edgeRange
  | divZero
  | memRange
  | overlap
  deriving DecidableEq, Repr

/-- The host's Frame Timer (R336): `count` and `target`, numbers of `TIMER_WIDTH` bits. -/
structure FrameTimer where
  count : Nat
  target : Nat
  deriving DecidableEq, Repr

/-- The host's Interval Timer (R338): the clock reading stamped as `start`, and `duration` in microseconds. `startWraps`
is the model's own (log 12): how often the clock had wrapped at the stamp. -/
structure IntervalTimer where
  startWraps : Nat
  start : Word
  duration : Nat
  deriving DecidableEq, Repr

/-- The environment on the host's side (R335): one timer of each kind (log 10), the 32-bit microsecond clock (R339), how
often it has wrapped (the model's own, log 12), and the answer of the last `check()`. -/
structure Env where
  frame : FrameTimer
  interval : IntervalTimer
  clock : Word
  wraps : Nat
  answer : Option Bool
  deriving DecidableEq, Repr

/-- One move of the host (R75, R335). Every move happens between two commands, or is one (R72, R74; log 8). -/
inductive HostMove
  /-- Present a command word; the unit executes it and responds (R9, R75). -/
  | present (w : Word)
  /-- The reset input (R350). -/
  | resetInput
  /-- Store a halfword into buffer memory (R75). -/
  | storeHalf (a : Nat) (v : Half)
  /-- Store a byte into buffer memory, in the host's byte view (R66, R75). -/
  | storeByte (a : Nat) (v : Byte)
  /-- Frame Timer `check()` (R336). -/
  | frameCheck
  /-- Frame Timer `reset()` (R336). -/
  | frameReset
  /-- Frame Timer `update(newTarget)` (R336). -/
  | frameUpdate (target : Nat)
  /-- Interval Timer `check()` (R338). -/
  | intervalCheck
  /-- Interval Timer `reset()` (R338). -/
  | intervalReset
  /-- Interval Timer `update(newDuration)` (R338). -/
  | intervalUpdate (duration : Nat)
  /-- That many microseconds pass (R339, R340; log 12). -/
  | elapse (us : Nat)
  deriving DecidableEq, Repr

/-- The whole state. The unit's own is `x`, `c`, `ctl`, `flt` and `fcause` (R20). -/
structure State where
  /-- `X0 … X7` (R21). -/
  x : Vector Word 8
  /-- `C0 … C7` (R22). -/
  c : Vector Color 8
  /-- The control registers (R28). -/
  ctl : Ctl
  /-- `FLT` (R35). -/
  flt : Bool
  /-- `FCAUSE` (R35). -/
  fcause : Byte
  /-- Buffer memory (R60) as the host's bytes (R66; log 3): entries at rising byte addresses, none equal to what an
  unlisted byte reads as. -/
  mem : List Host.Cell
  /-- The parameters of the run; no step changes them (R37). -/
  params : Config.Params
  /-- The response to the last command, if there is one (R98; log 7). -/
  resp : Option Response
  /-- The host-side environment (R335). -/
  env : Env
  /-- The moves the host still makes, the next one first (log 5). The unit has no queue (R20). -/
  host : List HostMove
  deriving DecidableEq, Repr

/-- Why the machine stops. No command does: a spec fault is a next state (R316). -/
inductive Fault
  /-- Raised by the host's `storeHalf` and `storeByte` for an address outside `0 … MEM_SIZE − 1`, which names no halfword
  (R60). Safe: nothing is claimed of such a store (log 9). -/
  | noSuchHalfword
  deriving DecidableEq, Repr

/-- Why a step is refused. -/
inductive Refusal
  /-- A command without a meaning. Raised by no arm of `exec`: every command has its meaning. Safe. -/
  | notModelled (mnemonic : String)
  /-- Raised by the host's `frameUpdate` and `frameCheck` for a target or count that `TIMER_WIDTH` bits do not hold
  (93_implementation_defined.md U15). Safe (log 11). -/
  | frameTimerWidth
  deriving DecidableEq, Repr

/-- The control registers after reset (R38). -/
def Ctl.reset : Ctl where
  src := 0#32
  dst := 0#32
  sizeX := 0#32
  sizeY := 0#32
  edge := 0#32
  kxLen := 1#32
  kyLen := 1#32
  kx := Vector.replicate 15 0#32
  ky := Vector.replicate 15 0#32

/-- The environment at launch. R336 gives a fresh Frame Timer's count; the other values are DESIGN CHOICE (log 10). -/
def Env.launch : Env where
  frame := ⟨0, 0⟩
  interval := ⟨0, 0#32, 0⟩
  clock := 0#32
  wraps := 0
  answer := none

/-- The machine right after reset (R38, R350), with no memory listed (R62; log 4), no response (log 7) and no move of the
host scheduled (log 5). -/
def State.reset : State where
  x := Vector.replicate 8 0#32
  c := Vector.replicate 8 ⟨0#16, 0#16, 0#16⟩
  ctl := Ctl.reset
  flt := false
  fcause := 0x00#8
  mem := []
  params := Config.launch
  resp := none
  env := Env.launch
  host := []

end Sys2Proof.Machine
end

