-- ==== Sys2Proof/Machine/Ops.lean ====
section
/-! DEFINITION. The named operations: buffer memory as bytes and halfwords (20_memory.md), the register files and control
registers (10_state.md), the response (30_encoding.md rule R98), and the one way a fault is taken and left
(60_exceptions.md rules R316-R318). -/

namespace Sys2Proof.Machine

/-! ### Buffer memory -/

namespace Mem

/-- The byte at a byte address of the host's view (R66). -/
def byteAt : List Host.Cell → Nat → Byte
  | [], _ => Config.unlistedByte
  | (b, w) :: m, a => if b = a then w else byteAt m a

/-- Write one byte, keeping the addresses rising and listing nothing that reads as unlisted. -/
def setByte : List Host.Cell → Nat → Byte → List Host.Cell
  | [], a, v => if v = Config.unlistedByte then [] else [(a, v)]
  | (b, w) :: m, a, v =>
    if a < b then (if v = Config.unlistedByte then (b, w) :: m else (a, v) :: (b, w) :: m)
    else if a = b then (if v = Config.unlistedByte then m else (a, v) :: m)
    else (b, w) :: setByte m a v

/-- The canonical form from address `lo` on. -/
def wfFrom : Nat → List Host.Cell → Bool
  | _, [] => true
  | lo, (a, v) :: m => decide (lo ≤ a) && decide (v ≠ Config.unlistedByte) && wfFrom (a + 1) m

/-- The canonical form: addresses strictly rising, no entry equal to what an unlisted byte reads as. -/
def wf (m : List Host.Cell) : Bool := wfFrom 0 m

/-- Every listed byte belongs to a halfword of `0 … memSize − 1` (R60). -/
def inside (memSize : Nat) (m : List Host.Cell) : Bool :=
  m.all fun cell => decide (cell.1 < 2 * memSize)

/-- The byte address of bits [7:0] of halfword `a`: bytes `2a` and `2a + 1` in the order `BYTE_ORDER` (R66). -/
def lowByte (o : Config.ByteOrder) (a : Nat) : Nat :=
  match o with
  | .little => 2 * a
  | .big => 2 * a + 1

/-- The byte address of bits [15:8] of halfword `a` (R66). -/
def highByte (o : Config.ByteOrder) (a : Nat) : Nat :=
  match o with
  | .little => 2 * a + 1
  | .big => 2 * a

/-- `MemRead(a, 1)` (R11). -/
def readHalf (o : Config.ByteOrder) (m : List Host.Cell) (a : Nat) : Half :=
  byteAt m (highByte o a) ++ byteAt m (lowByte o a)

/-- `MemWrite(a, 1, v)` (R11). -/
def writeHalf (o : Config.ByteOrder) (m : List Host.Cell) (a : Nat) (v : Half) : List Host.Cell :=
  setByte (setByte m (lowByte o a) (v.extractLsb' 0 8)) (highByte o a) (v.extractLsb' 8 8)

/-- `MemWrite(a, n, vs)`: the halfwords `vs` at `a, a + 1, …` (R11). -/
def writeHalves (o : Config.ByteOrder) : List Host.Cell → Nat → List Half → List Host.Cell
  | m, _, [] => m
  | m, a, v :: vs => writeHalves o (writeHalf o m a v) (a + 1) vs

end Mem

/-- The byte of buffer memory at a byte address of the host's view (R66). -/
def State.byteAt (s : State) (a : Nat) : Byte := Mem.byteAt s.mem a

/-- The halfword of buffer memory at halfword address `a`: `MemRead(a, 1)` (R11). -/
def State.halfAt (s : State) (a : Nat) : Half := Mem.readHalf s.params.byteOrder s.mem a

/-- The halfwords `vs` stored at `a, a + 1, …`: `MemWrite` (R11). -/
def State.storeHalves (s : State) (a : Nat) (vs : List Half) : State :=
  { s with mem := Mem.writeHalves s.params.byteOrder s.mem a vs }

/-! ### Register files -/

/-- `X[i]` (R11, R21). -/
def State.getX (s : State) (i : XReg) : Word := s.x[i]

/-- `X[i] <- v` (R11, R21). -/
def State.setX (s : State) (i : XReg) (v : Word) : State := { s with x := s.x.set i v }

/-- `C[i]` (R11, R22). -/
def State.getC (s : State) (i : CReg) : Color := s.c[i]

/-- `C[i] <- v` (R11, R22). -/
def State.setC (s : State) (i : CReg) (v : Color) : State := { s with c := s.c.set i v }

/-- `v.ch` (R11). -/
def Color.get (v : Color) : Chan → Half
  | .red => v.r
  | .green => v.g
  | .blue => v.b

/-- `v` with channel `ch` replaced; the other two keep their values (R280, R283). -/
def Color.set (v : Color) (ch : Chan) (h : Half) : Color :=
  match ch with
  | .red => { v with r := h }
  | .green => { v with g := h }
  | .blue => { v with b := h }

/-- The number of a channel: 0 red, 1 green, 2 blue (R22). -/
def chanNum : Chan → Nat
  | .red => 0
  | .green => 1
  | .blue => 2

/-! ### Control registers -/

/-- An assigned control register (R28). -/
inductive CtlName
  | src
  | dst
  | sizeX
  | sizeY
  | edge
  | kxLen
  | kyLen
  | kx (i : Fin 15)
  | ky (i : Fin 15)
  deriving DecidableEq, Repr

/-- The tap index of control-register number `cr` counted from `first`, if there is such a tap under `K_MAX` (R28). -/
def tapIndex (p : Config.Params) (first cr : Nat) : Option (Fin 15) :=
  if h : first ≤ cr ∧ cr - first < p.kMax.val then
    some ⟨cr - first, by have := p.kMax.isLt; omega⟩
  else none

/-- The control register a number names; none for an unassigned number (R28). -/
def ctlName (p : Config.Params) (cr : Half) : Option CtlName :=
  match cr.toNat with
  | 0 => some .src
  | 1 => some .dst
  | 2 => some .sizeX
  | 3 => some .sizeY
  | 4 => some .edge
  | 5 => some .kxLen
  | 6 => some .kyLen
  | n =>
    match tapIndex p 0x10 n with
    | some i => some (.kx i)
    | none => (tapIndex p 0x20 n).map .ky

/-- A kernel length: odd, 1 … K_MAX (R32). -/
def legalLen (p : Config.Params) (v : Word) : Bool :=
  decide (v.toNat % 2 = 1) && decide (v.toNat ≤ p.kMax.val)

/-- The legal values of a control register (R28-R33, R292). -/
def ctlLegal (p : Config.Params) : CtlName → Word → Bool
  | .sizeX, v => decide (v.toNat ≤ 65535)
  | .sizeY, v => decide (v.toNat ≤ 65535)
  | .edge, v => decide (v.toNat ≤ 3)
  | .kxLen, v => legalLen p v
  | .kyLen, v => legalLen p v
  | .src, _ => true
  | .dst, _ => true
  | .kx _, _ => true
  | .ky _, _ => true

/-- `CR[name]`. -/
def Ctl.get (k : Ctl) : CtlName → Word
  | .src => k.src
  | .dst => k.dst
  | .sizeX => k.sizeX
  | .sizeY => k.sizeY
  | .edge => k.edge
  | .kxLen => k.kxLen
  | .kyLen => k.kyLen
  | .kx i => k.kx[i]
  | .ky i => k.ky[i]

/-- `CR[name] <- v`; the write has no side effect beyond the register itself (R292). -/
def Ctl.set (k : Ctl) (name : CtlName) (v : Word) : Ctl :=
  match name with
  | .src => { k with src := v }
  | .dst => { k with dst := v }
  | .sizeX => { k with sizeX := v }
  | .sizeY => { k with sizeY := v }
  | .edge => { k with edge := v }
  | .kxLen => { k with kxLen := v }
  | .kyLen => { k with kyLen := v }
  | .kx i => { k with kx := k.kx.set i v }
  | .ky i => { k with ky := k.ky.set i v }

/-! ### The response -/

/-- The two bits of `st` (R98). -/
def statusCode : Status → BitVec 2
  | .ok => 0#2
  | .fault => 1#2
  | .discarded => 2#2

/-- `respond(st, data)` (R11, R98). -/
def State.respond (s : State) (st : Status) (data : Word) : State := { s with resp := some ⟨st, data⟩ }

/-- `respond(OK, 0)` (R98). -/
def State.done (s : State) : State := s.respond .ok 0#32

/-! ### Taking a fault, and leaving it -/

/-- The code of a cause (R311). -/
def causeCode : Cause → Byte
  | .illegalCmd => 0x01#8
  | .crNumber => 0x02#8
  | .crValue => 0x03#8
  | .ringRange => 0x04#8
  | .edgeTwoAxis => 0x05#8
  | .edgeRange => 0x06#8
  | .divZero => 0x07#8
  | .memRange => 0x08#8
  | .overlap => 0x09#8

/-- `raise Fault(code)` (R316): `FLT <- 1`, `FCAUSE <- code`, `respond(FAULT, zext_32(code))`, and nothing else. -/
def State.raise (s : State) (c : Cause) : State :=
  { s with flt := true, fcause := causeCode c, resp := some ⟨.fault, (causeCode c).zeroExtend 32⟩ }

/-- A command presented while `FLT = 1` (R317): no state changes, `respond(DISCARDED, zext_32(FCAUSE))`. -/
def State.discard (s : State) : State := s.respond .discarded (s.fcause.zeroExtend 32)

/-- Every register of the unit and the latch at its reset value (R38, R350); buffer memory is not touched. -/
def State.resetUnit (s : State) : State :=
  { s with
    x := State.reset.x
    c := State.reset.c
    ctl := Ctl.reset
    flt := State.reset.flt
    fcause := State.reset.fcause }

end Sys2Proof.Machine
end

