-- ==== Sys2Proof/Machine/Operands.lean ====
section
/-! DEFINITION. The operand forms (30_encoding.md rule R96, 44_moves_memory_control.md rule R296) and the checks over the
addresses a command forms (20_memory.md rules R68, R76). Addresses are formed in `Z` and never wrap. -/

namespace Sys2Proof.Machine

/-- `sx(i)`: an X register as a signed 32-bit integer (R11). -/
def State.sx (s : State) (i : XReg) : Int := (s.getX i).toInt

/-- `ux(i)`: an X register as an unsigned 32-bit integer (R11). -/
def State.ux (s : State) (i : XReg) : Nat := (s.getX i).toNat

/-- `fx(i)`: an X register as a binary32 pattern (R11). -/
def State.fx (s : State) (i : XReg) : Word := s.getX i

/-- `X[i][15:0]`: an amount or data operand, the upper half ignored (R96, R234, R283, R300). -/
def State.lo16 (s : State) (i : XReg) : Half := (s.getX i).extractLsb' 0 16

/-- `CR.SRC` as an address (R29). -/
def State.srcAddr (s : State) : Nat := s.ctl.src.toNat

/-- `CR.DST` as an address (R29). -/
def State.dstAddr (s : State) : Nat := s.ctl.dst.toNat

/-- `BASE`: `CR.SRC` or `CR.DST` (R296). -/
def State.baseAddr (s : State) : Base → Nat
  | .src => s.srcAddr
  | .dst => s.dstAddr

/-- The address of the first halfword of a pixel operand: `BASE + 3 × ux(A)` (R296). -/
def State.pixelAddr (s : State) (base : Base) (a : XReg) : Nat := s.baseAddr base + 3 * s.ux a

/-- The address of a halfword operand: `BASE + ux(A)` (R296). -/
def State.halfAddr (s : State) (base : Base) (a : XReg) : Nat := s.baseAddr base + s.ux a

/-- `Px` at a halfword address: the pixel in the three halfwords from `a` on, red, green, blue (R11, R64). -/
def State.pixelAt (s : State) (a : Nat) : Color := ⟨s.halfAt a, s.halfAt (a + 1), s.halfAt (a + 2)⟩

/-- The three halfwords of a Color Value in memory order (R64). -/
def Color.halves (v : Color) : List Half := [v.r, v.g, v.b]

/-- The element size `e`: 1 halfword for RAW, 3 for PIX (R231). -/
def elemSize : Elem → Nat
  | .raw => 1
  | .pix => 3

/-- The halfwords `a, a + 1, … a + n − 1` all lie in `0 … MEM_SIZE − 1`; an empty range always does (R68). -/
def State.rangeOk (s : State) (a n : Nat) : Bool := decide (n = 0) || decide (a + n ≤ s.params.memSize)

/-- The ranges of `m` halfwords from `a` and `n` from `b` have a common halfword (R76). -/
def overlaps (a m b n : Nat) : Bool :=
  decide (0 < m) && decide (0 < n) && decide (a < b + n) && decide (b < a + m)

/-- The range check of a source range of `m` halfwords and a destination range of `n`, then the *in-place allowed* overlap
rule (R76, R233). -/
def State.vectorCheck (s : State) (m n : Nat) : Option Cause :=
  if !(s.rangeOk s.srcAddr m && s.rangeOk s.dstAddr n) then some .memRange
  else if overlaps s.srcAddr m s.dstAddr n && s.ctl.src != s.ctl.dst then some .overlap
  else none

/-- The range check of a source and a destination range of `n` halfwords, then the *strict* overlap rule (R76, R205). -/
def State.strictCheck (s : State) (n : Nat) : Option Cause :=
  if !(s.rangeOk s.srcAddr n && s.rangeOk s.dstAddr n) then some .memRange
  else if overlaps s.srcAddr n s.dstAddr n then some .overlap
  else none

/-- A command that raises a cause, or stores the halfwords `vs` at `CR.DST` and responds (OK, 0). -/
def State.storeUnless (s : State) (c : Option Cause) (vs : List Half) : State :=
  match c with
  | some c => s.raise c
  | none => (s.storeHalves s.dstAddr vs).done

end Sys2Proof.Machine
end

