-- ==== Sys2Proof/Machine/Access.lean ====
section
/-! DEFINITION. Pixel and halfword access to buffer memory: PLD, PST, HLD, HST (44_moves_memory_control.md section 5). -/

namespace Sys2Proof.Machine

/-- PLD (R297). -/
def execPld (d : CReg) (a : XReg) (base : Base) (s : State) : Host.Outcome State Fault Refusal :=
  if s.rangeOk (s.pixelAddr base a) 3 then .next (s.setC d (s.pixelAt (s.pixelAddr base a))).done
  else .next (s.raise .memRange)

/-- PST (R298). -/
def execPst (d : CReg) (a : XReg) (base : Base) (s : State) : Host.Outcome State Fault Refusal :=
  if s.rangeOk (s.pixelAddr base a) 3 then .next (s.storeHalves (s.pixelAddr base a) (s.getC d).halves).done
  else .next (s.raise .memRange)

/-- HLD (R299): the halfword is zero-extended. -/
def execHld (d a : XReg) (base : Base) (s : State) : Host.Outcome State Fault Refusal :=
  if s.rangeOk (s.halfAddr base a) 1 then .next (s.setX d ((s.halfAt (s.halfAddr base a)).zeroExtend 32)).done
  else .next (s.raise .memRange)

/-- HST (R300): bits [31:16] of the data register are ignored. -/
def execHst (d a : XReg) (base : Base) (s : State) : Host.Outcome State Fault Refusal :=
  if s.rangeOk (s.halfAddr base a) 1 then .next (s.storeHalves (s.halfAddr base a) [s.lo16 d]).done
  else .next (s.raise .memRange)

end Sys2Proof.Machine
end

