-- ==== Sys2Proof/Machine/Addressing.lean ====
section
/-! DEFINITION. The buffer address generator and edge handling: `pix_index`, `resolve`, INDEX, EDGE
(41_addressing_edge.md). Coordinates are integers of `Z`. -/

namespace Sys2Proof.Machine

/-- `pix_index(rings, column, ring)` (R171). -/
def pixIndex (rings column ring : Int) : Int := rings * column + ring

/-- The edge policies (R31). -/
inductive Policy
  | wrap
  | reflect
  | copy
  | black
  deriving DecidableEq, Repr

/-- The policy in bits [1:0] of `EDGE` (R31). -/
def policyOf (edge : Word) : Policy :=
  let v := edge.toNat % 4
  if v = 0 then .wrap else if v = 1 then .reflect else if v = 2 then .copy else .black

/-- `0 ≤ v < size`. -/
def inAxis (v size : Int) : Bool := decide (0 ≤ v) && decide (v < size)

/-- `wrap1(v, size)` (R177): one fold by the axis size. -/
def wrap1 (v size : Int) : Int := if v < 0 then v + size else if size ≤ v then v - size else v

/-- `refl1(v, size)` (R178): mirrored across the nearest edge. -/
def refl1 (v size : Int) : Int := if v < 0 then -v - 1 else if size ≤ v then 2 * size - v - 1 else v

/-- What `resolve` answers (R176). -/
inductive Resolved
  /-- An in-range coordinate to read. -/
  | coord (cx cy : Int)
  /-- A channel value to use without reading. -/
  | value (v : Half)
  /-- It raises this fault. -/
  | fault (c : Cause)
  deriving DecidableEq, Repr

/-- The last check of `resolve`: the coordinate it reads is in range, or `EDGE_RANGE` (R176). -/
def coordIn (cx cy sx sy : Int) : Resolved :=
  if inAxis cx sx && inAxis cy sy then .coord cx cy else .fault .edgeRange

/-- `resolve(policy, ox, oy, fx, fy, sx, sy)` (R176, R179-R181, R183). -/
def resolve (p : Config.Params) (policy : Policy) (ox oy fx fy sx sy : Int) : Resolved :=
  if !inAxis ox sx && !inAxis oy sy then .fault .edgeTwoAxis
  else if inAxis ox sx && inAxis oy sy then .coord ox oy
  else
    match policy with
    | .black => .value p.edgeBlack
    | .copy => coordIn fx fy sx sy
    | .wrap => coordIn (wrap1 ox sx) (wrap1 oy sy) sx sy
    | .reflect => coordIn (refl1 ox sx) (refl1 oy sy) sx sy

/-- The halfword address of channel `ch` of pixel `(x, y)` of a buffer at `base`: `base + 3 × (x × SIZEY + y) + ch`
(R172, R173). -/
def sampleAddr (base sizeY x y ch : Nat) : Nat := base + 3 * (x * sizeY + y) + ch

/-- INDEX (R174). -/
def execIndex (d n col ring : XReg) (s : State) : Host.Outcome State Fault Refusal :=
  if 0 ≤ s.sx ring ∧ s.sx ring < s.sx n then
    .next (s.setX d (BitVec.ofInt 32 (pixIndex (s.sx n) (s.sx col) (s.sx ring)))).done
  else .next (s.raise .ringRange)

/-- EDGE (R182): a value needs no memory access and so no range check. -/
def execEdge (d ox oy fx fy : XReg) (ch : Chan) (s : State) : Host.Outcome State Fault Refusal :=
  match resolve s.params (policyOf s.ctl.edge) (s.sx ox) (s.sx oy) (s.sx fx) (s.sx fy) s.ctl.sizeX.toNat
      s.ctl.sizeY.toNat with
  | .fault c => .next (s.raise c)
  | .value v => .next (s.setX d (v.zeroExtend 32)).done
  | .coord cx cy =>
    let addr := sampleAddr s.srcAddr s.ctl.sizeY.toNat cx.toNat cy.toNat (chanNum ch)
    if addr < s.params.memSize then .next (s.setX d ((s.halfAt addr).zeroExtend 32)).done
    else .next (s.raise .memRange)

end Sys2Proof.Machine
end

