-- ==== Sys2Proof/Machine/Float32.lean ====
section
/-! DEFINITION. IEEE 754 binary32 operands and the one rounding of the unit (40_color_arithmetic.md rules R135, R139).
Every finite binary32 value is a whole number of units of 2^-149, so values are held as integers of that unit and nothing
is approximated before the rounding. -/

namespace Sys2Proof.Machine.F32

/-- The exponent field `e = w[30:23]` (R135). -/
def expo (w : Word) : Nat := (w.extractLsb' 23 8).toNat

/-- The fraction field `m = w[22:0]` (R135). -/
def frac (w : Word) : Nat := (w.extractLsb' 0 23).toNat

/-- The magnitude of a finite pattern, in units of 2^-149: `m` if `e = 0`, else `(2^23 + m) × 2^(e − 1)` (R135). -/
def mag (w : Word) : Nat := if expo w = 0 then frac w else (2 ^ 23 + frac w) <<< (expo w - 1)

/-- The value of a finite pattern, in units of 2^-149 (R135). -/
def units (w : Word) : Int := if w.msb then -(mag w : Int) else (mag w : Int)

/-- What a binary32 pattern stands for (R135). -/
inductive Value
  | nan
  | inf (negative : Bool)
  /-- A number, in units of 2^-149. -/
  | num (units : Int)
  deriving DecidableEq, Repr

/-- `value(w)` (R135). -/
def value (w : Word) : Value :=
  if expo w = 255 then (if frac w = 0 then .inf w.msb else .nan) else .num (units w)

/-- 1.0 in units of 2^-149. -/
def one : Nat := 2 ^ 149

/-- The spacing of binary32 numbers at `n × 2^-(149 + k)`, as a power of two of the unit 2^-(149 + k): 24 significant
bits, but never finer than 2^-149 (R135). -/
def ulpExp (n k : Nat) : Nat := max (n.log2 - 23) k

/-- `n / 2^sh` rounded to the nearest whole number, a tie going to the even one. -/
def roundShift (n sh : Nat) : Nat :=
  let q := n >>> sh
  let rem := n - q <<< sh
  if 1 <<< sh < 2 * rem ∨ (2 * rem = 1 <<< sh ∧ q % 2 = 1) then q + 1 else q

/-- The binary32 number nearest to `n × 2^-(149 + k)` in units of 2^-149, the exponent taken without upper bound. -/
def roundUnits (n k : Nat) : Nat := roundShift n (ulpExp n k) <<< (ulpExp n k - k)

/-- `rne32(n × 2^-(149 + k))` for a real `≥ 0` (R135): the significand with its leading bit carries into the exponent
field, and a pattern at or above 0x7F800000 is `+∞`. -/
def rneNat (n k : Nat) : Word :=
  let bits := (ulpExp n k - k) * 2 ^ 23 + roundShift n (ulpExp n k)
  if 0x7F800000 ≤ bits then 0x7F800000#32 else BitVec.ofNat 32 bits

/-- `rne32(z × 2^-(149 + k))` for a real of either sign: `−rne32(−r)` for a negative `r` (R135). -/
def rne (z : Int) (k : Nat) : Word :=
  if z < 0 then 0x80000000#32 ||| rneNat (-z).toNat k else rneNat z.toNat k

/-- `clamp_t(t)` (R139). -/
def clampT (t : Word) : Word :=
  match value t with
  | .nan => 0x00000000#32
  | .inf negative => if negative then 0x00000000#32 else 0x3F800000#32
  | .num u => if u ≤ 0 then 0x00000000#32 else if (one : Int) ≤ u then 0x3F800000#32 else t

end Sys2Proof.Machine.F32
end

