-- ==== Sys2Proof/Machine/Arith.lean ====
section
/-! DEFINITION. The arithmetic of channel values: saturating add, subtract and multiply, scaling by a float, and the
weights of CLERP and VBLUR1 (40_color_arithmetic.md, 43_vector_ops.md rule R262). Sums and products are taken in `Z`
and narrowed at the end. -/

namespace Sys2Proof.Machine

/-- `satadd(a, b) = min(a + b, 65535)` (R131). -/
def satadd (a b : Half) : Half := BitVec.ofNat 16 (min (a.toNat + b.toNat) 65535)

/-- `satsub(a, b) = max(a − b, 0)` (R132). -/
def satsub (a b : Half) : Half := BitVec.ofNat 16 (a.toNat - b.toNat)

/-- `satmul(a, b) = min(a × b, 65535)`, the plain integer product (R133). -/
def satmul (a b : Half) : Half := BitVec.ofNat 16 (min (a.toNat * b.toNat) 65535)

/-- `trunc_16(a + b)`, the one sum that wraps (R244). -/
def wrapadd (a b : Half) : Half := a + b

/-- `scale1(c, f)`, the default `SCALE_CORE` (R136): one exact product, one rounding to binary32, clamp, truncate. -/
def scale1 (c : Half) (f : Word) : Half :=
  match F32.value f with
  | .nan => 0#16
  | .inf negative => if negative then 0#16 else if c = 0#16 then 0#16 else 0xFFFF#16
  | .num u =>
    if u ≤ 0 then 0#16
    else if c = 0#16 then 0#16
    else
      let p := F32.roundUnits (c.toNat * u.toNat) 0
      if 65535 * F32.one ≤ p then 0xFFFF#16 else BitVec.ofNat 16 (p >>> 149)

/-- One operation on the three lanes of two Color Values; no lane influences another (R140). -/
def lanes (f : Half → Half → Half) (a b : Color) : Color := ⟨f a.r b.r, f a.g b.g, f a.b b.b⟩

/-- The same factor for the three lanes (R140, R146). -/
def scaleColor (a : Color) (f : Word) : Color := ⟨scale1 a.r f, scale1 a.g f, scale1 a.b f⟩

/-- `(wa, wb)` of CLERP (R150): `u = rne32(1 − tc)` and `tc`, in the order `LERP_WEIGHTING` asks for. -/
def lerpWeights (p : Config.Params) (t : Word) : Word × Word :=
  let tc := F32.clampT t
  let u := F32.rne ((F32.one : Int) - F32.units tc) 0
  match p.lerp with
  | .tWeightsB => (u, tc)
  | .tWeightsA => (tc, u)

/-- The interpolated colour of R150: each operand scaled to an integer first, then added with saturation. -/
def lerpColor (p : Config.Params) (a b : Color) (t : Word) : Color :=
  lanes satadd (scaleColor a (lerpWeights p t).1) (scaleColor b (lerpWeights p t).2)

/-- The binary32 nearest to 1/3 (R215, R262). -/
def third : Word := 0x3EAAAAAB#32

/-- The side weight of R262: `a / 3` less 0.05, in binary32. -/
def blurSide (amount : Word) : Word :=
  let s0 := F32.rne (F32.units (F32.clampT amount) * F32.units third) 149
  F32.rne (F32.units s0 - F32.units 0x3D4CCCCD#32) 0

/-- The centre weight of R262: what is left of 1 after two side weights, a negative side weight counting as 0. -/
def blurCentre (amount : Word) : Word :=
  let ws := F32.units (blurSide amount)
  F32.rne ((F32.one : Int) - 2 * (if 0 < ws then ws else 0)) 0

/-- `BLUR1D_WEIGHTS(amount) = (wc, ws)`, the default (R262). -/
def blurWeights (amount : Word) : Word × Word := (blurCentre amount, blurSide amount)

end Sys2Proof.Machine
end

