-- ==== Sys2Proof/Machine/Flags.lean ====
section
/-! DEFINITION. The unit has no condition codes, no carry, overflow or saturation flag (10_state.md rule R27). The one
comparison it makes has its result in an X register (40_color_arithmetic.md rule R152). -/

namespace Sys2Proof.Machine

/-- The result word of CEQ: 1 when all three channels are equal, else 0 (R152). -/
def eqWord (a b : Color) : Word := if a.r = b.r ∧ a.g = b.g ∧ a.b = b.b then 1#32 else 0#32

end Sys2Proof.Machine
end

