-- ==== Sys2Proof/Machine/ColorArith.lean ====
section
/-! DEFINITION. Colour arithmetic: CADD, CSUB, CMUL, CSCALE, CLERP, CEQ (40_color_arithmetic.md section 2). -/

namespace Sys2Proof.Machine

/-- CADD (R141). -/
def execCadd (d a b : CReg) (s : State) : Host.Outcome State Fault Refusal :=
  .next (s.setC d (lanes satadd (s.getC a) (s.getC b))).done

/-- CSUB (R142). -/
def execCsub (d a b : CReg) (s : State) : Host.Outcome State Fault Refusal :=
  .next (s.setC d (lanes satsub (s.getC a) (s.getC b))).done

/-- CMUL (R143). -/
def execCmul (d a b : CReg) (s : State) : Host.Outcome State Fault Refusal :=
  .next (s.setC d (lanes satmul (s.getC a) (s.getC b))).done

/-- CSCALE (R146). -/
def execCscale (d a : CReg) (f : XReg) (s : State) : Host.Outcome State Fault Refusal :=
  .next (s.setC d (scaleColor (s.getC a) (s.fx f))).done

/-- CLERP (R150). -/
def execClerp (d a b : CReg) (t : XReg) (s : State) : Host.Outcome State Fault Refusal :=
  .next (s.setC d (lerpColor s.params (s.getC a) (s.getC b) (s.fx t))).done

/-- CEQ (R152). -/
def execCeq (d : XReg) (a b : CReg) (s : State) : Host.Outcome State Fault Refusal :=
  .next (s.setX d (eqWord (s.getC a) (s.getC b))).done

end Sys2Proof.Machine
end

