-- ==== Sys2Proof/Machine/Control.lean ====
section
/-! DEFINITION. Control-register access: CRW, CRR (44_moves_memory_control.md section 4). -/

namespace Sys2Proof.Machine

/-- CRW (R292): `CR_NUMBER` before `CR_VALUE`, then the write. -/
def execCrw (d : XReg) (cr : Half) (s : State) : Host.Outcome State Fault Refusal :=
  match ctlName s.params cr with
  | none => .next (s.raise .crNumber)
  | some name =>
    if ctlLegal s.params name (s.getX d) then
      .next (State.done { s with ctl := s.ctl.set name (s.getX d) })
    else .next (s.raise .crValue)

/-- CRR (R293). -/
def execCrr (d : XReg) (cr : Half) (s : State) : Host.Outcome State Fault Refusal :=
  match ctlName s.params cr with
  | none => .next (s.raise .crNumber)
  | some name => .next (s.setX d (s.ctl.get name)).done

end Sys2Proof.Machine
end

