-- ==== Sys2Proof/Machine/Convolution.lean ====
section
/-! DEFINITION. The separable-convolution pipeline: one 1D pass, CONV and BLUR (42_convolution.md). An image answers a
channel value for a column, a ring and a channel number, or the fault an edge lookup raised; the intermediate image `T`
of 10_state.md rule R36 is such an image and lives only inside the command. -/

namespace Sys2Proof.Machine

/-- An image `img(x, y, ch)` (R204). -/
abbrev Image := Nat → Nat → Nat → Except Cause Half

/-- The axis a pass moves along: X is the column axis, Y the ring axis (R172, R204). -/
inductive Axis
  | x
  | y
  deriving DecidableEq, Repr

/-- What a CONV or BLUR runs with: the policy, the sizes and the two kernels (R205, R215). -/
structure ConvSetup where
  policy : Policy
  sizeX : Nat
  sizeY : Nat
  kx : List Word
  ky : List Word
  deriving DecidableEq, Repr

/-- The offset of tap `i` of a kernel of length `len`: `i − len div 2` (R201). -/
def tapOffset (len i : Nat) : Int := (i : Int) - ((len / 2 : Nat) : Int)

/-- The sample of the tap at offset `off` from pixel `(x, y)` along `axis`; the fallback is the pixel being computed
(R202, R204). -/
def tapSample (p : Config.Params) (u : ConvSetup) (axis : Axis) (img : Image) (x y ch : Nat) (off : Int) :
    Except Cause Half :=
  let ox : Int := match axis with
    | .x => x + off
    | .y => x
  let oy : Int := match axis with
    | .x => y
    | .y => y + off
  match resolve p u.policy ox oy x y u.sizeX u.sizeY with
  | .coord cx cy => img cx.toNat cy.toNat ch
  | .value v => .ok v
  | .fault c => .error c

/-- The taps `i, i + 1, …` of a kernel of length `len` accumulated onto `acc`: contribution `scale1(s, k[i])`, sum
`satadd` (R202-R204). -/
def tapSum (p : Config.Params) (u : ConvSetup) (axis : Axis) (img : Image) (x y ch len : Nat) :
    Nat → List Word → Half → Except Cause Half
  | _, [], acc => .ok acc
  | i, k :: ks, acc =>
    match tapSample p u axis img x y ch (tapOffset len i) with
    | .error c => .error c
    | .ok v => tapSum p u axis img x y ch len (i + 1) ks (satadd acc (scale1 v k))

/-- `pass(img, axis, k, L, policy)` (R204). -/
def pass (p : Config.Params) (u : ConvSetup) (axis : Axis) (kernel : List Word) (img : Image) : Image :=
  fun x y ch => tapSum p u axis img x y ch kernel.length 0 kernel 0#16

/-- `satadd(A(x, y, ch), B(x, y, ch))` (R205, `SUM`). -/
def sumImages (a b : Image) : Image := fun x y ch =>
  match a x y ch with
  | .error c => .error c
  | .ok v =>
    match b x y ch with
    | .error c => .error c
    | .ok w => .ok (satadd v w)

/-- `out` of R205: the Y pass of the X pass under `COMPOSE`, the sum of the two passes of the source under `SUM` (R206). -/
def convImage (p : Config.Params) (u : ConvSetup) (img : Image) : Image :=
  match p.combine with
  | .compose => pass p u .y u.ky (pass p u .x u.kx img)
  | .sum => sumImages (pass p u .x u.kx img) (pass p u .y u.ky img)

/-- The source image `samp(CR.SRC, x, y, ch)` of memory before the command (R173, R205). -/
def State.srcImage (s : State) (sizeY : Nat) : Image := fun x y ch => .ok (s.halfAt (sampleAddr s.srcAddr sizeY x y ch))

/-- The first `n` halfwords of an image of `sizeY` rings in memory order: halfword `j` is channel `j mod 3` of pixel
`j div 3` (R63, R64). -/
def imageHalves (sizeY : Nat) (img : Image) (n : Nat) : List (Except Cause Half) :=
  (List.range n).map fun j => img (j / 3 / sizeY) (j / 3 % sizeY) (j % 3)

/-- The values of a list of results, or the first fault among them. -/
def collect : List (Except Cause Half) → Except Cause (List Half)
  | [] => .ok []
  | .error c :: _ => .error c
  | .ok v :: rest =>
    match collect rest with
    | .error c => .error c
    | .ok vs => .ok (v :: vs)

/-- Whether a kernel radius is too large to be folded back: under Wrap and Reflect, `L div 2 > size` (R207). -/
def radiusTooLarge (u : ConvSetup) : Bool :=
  match u.policy with
  | .wrap => decide (u.sizeX < u.kx.length / 2) || decide (u.sizeY < u.ky.length / 2)
  | .reflect => decide (u.sizeX < u.kx.length / 2) || decide (u.sizeY < u.ky.length / 2)
  | .copy => false
  | .black => false

/-- The pseudocode of R205 for a given set-up: an empty buffer does nothing (R212); `EDGE_RANGE`, then `MEM_RANGE`, then
`OVERLAP` (R209); then the destination is overwritten (R210). -/
def convolve (u : ConvSetup) (s : State) : State :=
  let n := u.sizeX * u.sizeY
  if n = 0 then s.done
  else if radiusTooLarge u then s.raise .edgeRange
  else
    match s.strictCheck (3 * n) with
    | some c => s.raise c
    | none =>
      match collect (imageHalves u.sizeY (convImage s.params u (s.srcImage u.sizeY)) (3 * n)) with
      | .error c => s.raise c
      | .ok vs => (s.storeHalves s.dstAddr vs).done

/-- The first `len` tap registers; a place the registers do not have holds no weight and reads +0.0 (log 15). -/
def taps (k : Vector Word 15) (len : Word) : List Word := (List.range len.toNat).map fun i => k.toList.getD i 0#32

/-- The set-up of CONV: all of it from the control registers (R205). -/
def State.convSetup (s : State) : ConvSetup where
  policy := policyOf s.ctl.edge
  sizeX := s.ctl.sizeX.toNat
  sizeY := s.ctl.sizeY.toNat
  kx := taps s.ctl.kx s.ctl.kxLen
  ky := taps s.ctl.ky s.ctl.kyLen

/-- The set-up of BLUR: Black, three taps of 1/3 on both axes (R215). -/
def State.blurSetup (s : State) : ConvSetup where
  policy := .black
  sizeX := s.ctl.sizeX.toNat
  sizeY := s.ctl.sizeY.toNat
  kx := [third, third, third]
  ky := [third, third, third]

/-- CONV (R205). -/
def execConv (s : State) : Host.Outcome State Fault Refusal := .next (convolve s.convSetup s)

/-- BLUR (R215). -/
def execBlur (s : State) : Host.Outcome State Fault Refusal := .next (convolve s.blurSetup s)

end Sys2Proof.Machine
end

