-- ==== Sys2Proof/Machine/Moves.lean ====
section
/-! DEFINITION. X and C register moves: XLI, XLH, XMOV, CLI, CMOV, CGET, CSET (44_moves_memory_control.md sections 2, 3). -/

namespace Sys2Proof.Machine

/-- XLI (R275): `X[D] <- sext_32(IMM)`. -/
def execXli (d : XReg) (imm : Half) (s : State) : Host.Outcome State Fault Refusal :=
  .next (s.setX d (imm.signExtend 32)).done

/-- XLH (R276): `X[D] <- {IMM, X[D][15:0]}`. -/
def execXlh (d : XReg) (imm : Half) (s : State) : Host.Outcome State Fault Refusal :=
  .next (s.setX d (imm ++ s.lo16 d)).done

/-- XMOV (R277). -/
def execXmov (d a : XReg) (s : State) : Host.Outcome State Fault Refusal := .next (s.setX d (s.getX a)).done

/-- CLI (R280): the other two channels keep their values. -/
def execCli (d : CReg) (ch : Chan) (imm : Half) (s : State) : Host.Outcome State Fault Refusal :=
  .next (s.setC d ((s.getC d).set ch imm)).done

/-- CMOV (R281). -/
def execCmov (d a : CReg) (s : State) : Host.Outcome State Fault Refusal := .next (s.setC d (s.getC a)).done

/-- CGET (R282): `X[D] <- zext_32(C[A].ch)`. -/
def execCget (d : XReg) (a : CReg) (ch : Chan) (s : State) : Host.Outcome State Fault Refusal :=
  .next (s.setX d (((s.getC a).get ch).zeroExtend 32)).done

/-- CSET (R283): `C[D].ch <- X[A][15:0]`. -/
def execCset (d : CReg) (a : XReg) (ch : Chan) (s : State) : Host.Outcome State Fault Refusal :=
  .next (s.setC d ((s.getC d).set ch (s.lo16 a))).done

end Sys2Proof.Machine
end

