-- ==== Sys2Proof/Machine/UnitControl.lean ====
section
/-! DEFINITION. Unit control: NOP, URST, XRD (44_moves_memory_control.md section 1). -/

namespace Sys2Proof.Machine

/-- NOP (R270). -/
def execNop (s : State) : Host.Outcome State Fault Refusal := .next s.done

/-- URST (R271): every register and the latch take their reset values; buffer memory keeps its content. -/
def execUrst (s : State) : Host.Outcome State Fault Refusal := .next s.resetUnit.done

/-- XRD (R272): the only OK response with data. -/
def execXrd (a : XReg) (s : State) : Host.Outcome State Fault Refusal := .next (s.respond .ok (s.getX a))

end Sys2Proof.Machine
end

