-- ==== Sys2Proof/Machine/VectorOps.lean ====
section
/-! DEFINITION. The vector operations: VCOPY, VTILE, VFILL, VADD, VFADE, VBRT, VBLUR1 (43_vector_ops.md). Every value
stored is computed from memory before the command (R233). -/

namespace Sys2Proof.Machine

/-- `old(CR.SRC + j)`. -/
def State.srcHalf (s : State) (j : Nat) : Half := s.halfAt (s.srcAddr + j)

/-- `old(CR.DST + j)`. -/
def State.dstHalf (s : State) (j : Nat) : Half := s.halfAt (s.dstAddr + j)

/-- `e × n`: the halfwords of `ux(A)` elements (R231, R232). -/
def State.span (s : State) (n : XReg) (k : Elem) : Nat := elemSize k * s.ux n

/-- An operation that computes each of `n` halfwords of the destination from the halfword of the source at the same
place. -/
def State.mapSource (s : State) (n : Nat) (f : Half → Half) : State :=
  s.storeUnless (s.vectorCheck n n) ((List.range n).map fun j => f (s.srcHalf j))

/-- The source halfword that VTILE stores at place `j`: element `(j div e) mod m`, halfword `j mod e` of it (R238). -/
def tileIndex (e m j : Nat) : Nat := e * (j / e % m) + j % e

/-- The halfword VBLUR1 stores at place `j` of a ring of `n` elements of `e` halfwords (R260). -/
def State.blurHalf (s : State) (e n : Nat) (w : Word × Word) (j : Nat) : Half :=
  let i := j / e
  let c := j % e
  let ctr := s.srcHalf (e * i + c)
  let lft := s.srcHalf (e * ((i + n - 1) % n) + c)
  let rgt := s.srcHalf (e * ((i + 1) % n) + c)
  satadd (satadd (scale1 ctr w.1) (scale1 lft w.2)) (scale1 rgt w.2)

/-- VCOPY (R235). -/
def execVcopy (n : XReg) (k : Elem) (s : State) : Host.Outcome State Fault Refusal :=
  .next (s.mapSource (s.span n k) id)

/-- VTILE (R238): `DIV_ZERO` first, also when `n = 0`. -/
def execVtile (n m : XReg) (k : Elem) (s : State) : Host.Outcome State Fault Refusal :=
  if s.ux m = 0 then .next (s.raise .divZero)
  else
    .next (s.storeUnless (s.vectorCheck (elemSize k * min (s.ux n) (s.ux m)) (s.span n k))
      ((List.range (s.span n k)).map fun j => s.srcHalf (tileIndex (elemSize k) (s.ux m) j)))

/-- VFILL (R241): it reads no memory and cannot overlap. -/
def execVfill (d : CReg) (n : XReg) (s : State) : Host.Outcome State Fault Refusal :=
  .next (s.storeUnless (if s.rangeOk s.dstAddr (3 * s.ux n) then none else some .memRange)
    ((List.replicate (s.ux n) (s.getC d).halves).flatten))

/-- VADD (R244): halfword by halfword, modulo 2^16, onto the destination. -/
def execVadd (n : XReg) (s : State) : Host.Outcome State Fault Refusal :=
  .next (s.storeUnless (s.vectorCheck (s.ux n) (s.ux n))
    ((List.range (s.ux n)).map fun j => wrapadd (s.dstHalf j) (s.srcHalf j)))

/-- VFADE (R247). -/
def execVfade (n amt : XReg) (k : Elem) (s : State) : Host.Outcome State Fault Refusal :=
  .next (s.mapSource (s.span n k) fun v => satsub v (s.lo16 amt))

/-- VBRT (R250). -/
def execVbrt (n amt : XReg) (k : Elem) (s : State) : Host.Outcome State Fault Refusal :=
  .next (s.mapSource (s.span n k) fun v => satadd v (s.lo16 amt))

/-- VBLUR1 (R260). -/
def execVblur1 (n amt : XReg) (k : Elem) (s : State) : Host.Outcome State Fault Refusal :=
  .next (s.storeUnless (s.vectorCheck (s.span n k) (s.span n k))
    ((List.range (s.span n k)).map (s.blurHalf (elemSize k) (s.ux n) (blurWeights (s.fx amt)))))

end Sys2Proof.Machine
end

