-- ==== Sys2Proof/Machine/Dispatch.lean ====
section
/-! DEFINITION. The dispatch from a command to its meaning: one arm per constructor of `Instr`. -/

namespace Sys2Proof.Machine

def exec (i : Instr) (s : State) : Host.Outcome State Fault Refusal :=
  match i with
  | .nop => Sys2Proof.Machine.execNop s
  | .urst => Sys2Proof.Machine.execUrst s
  | .xrd a => Sys2Proof.Machine.execXrd a s
  | .xli d imm => Sys2Proof.Machine.execXli d imm s
  | .xlh d imm => Sys2Proof.Machine.execXlh d imm s
  | .xmov d a => Sys2Proof.Machine.execXmov d a s
  | .cli d ch imm => Sys2Proof.Machine.execCli d ch imm s
  | .cmov d a => Sys2Proof.Machine.execCmov d a s
  | .cget d a ch => Sys2Proof.Machine.execCget d a ch s
  | .cset d a ch => Sys2Proof.Machine.execCset d a ch s
  | .crw d cr => Sys2Proof.Machine.execCrw d cr s
  | .crr d cr => Sys2Proof.Machine.execCrr d cr s
  | .cadd d a b => Sys2Proof.Machine.execCadd d a b s
  | .csub d a b => Sys2Proof.Machine.execCsub d a b s
  | .cmul d a b => Sys2Proof.Machine.execCmul d a b s
  | .cscale d a f => Sys2Proof.Machine.execCscale d a f s
  | .clerp d a b t => Sys2Proof.Machine.execClerp d a b t s
  | .ceq d a b => Sys2Proof.Machine.execCeq d a b s
  | .index d n col ring => Sys2Proof.Machine.execIndex d n col ring s
  | .edge d ox oy fx fy ch => Sys2Proof.Machine.execEdge d ox oy fx fy ch s
  | .pld d a base => Sys2Proof.Machine.execPld d a base s
  | .pst d a base => Sys2Proof.Machine.execPst d a base s
  | .hld d a base => Sys2Proof.Machine.execHld d a base s
  | .hst d a base => Sys2Proof.Machine.execHst d a base s
  | .conv => Sys2Proof.Machine.execConv s
  | .blur => Sys2Proof.Machine.execBlur s
  | .vcopy n k => Sys2Proof.Machine.execVcopy n k s
  | .vtile n m k => Sys2Proof.Machine.execVtile n m k s
  | .vfill d n => Sys2Proof.Machine.execVfill d n s
  | .vadd n => Sys2Proof.Machine.execVadd n s
  | .vfade n amt k => Sys2Proof.Machine.execVfade n amt k s
  | .vbrt n amt k => Sys2Proof.Machine.execVbrt n amt k s
  | .vblur1 n amt k => Sys2Proof.Machine.execVblur1 n amt k s

end Sys2Proof.Machine
end

