-- ==== Sys2Proof/Machine/Timers.lean ====
section
/-! DEFINITION. The host-side timers and the microsecond clock (60_exceptions.md section 8). The unit contains none of
them and no command reads them (R335). -/

namespace Sys2Proof.Machine

/-- Frame Timer `check()` (R336): true in "ready"; in "waiting" it counts and answers false. A count that `TIMER_WIDTH`
bits do not hold is refused (log 11). -/
def frameCheck (s : State) : Host.Outcome State Fault Refusal :=
  let t := s.env.frame
  if t.target ≤ t.count then .next { s with env := { s.env with answer := some true } }
  else if t.count + 1 < 2 ^ s.params.timerWidth then
    .next { s with env := { s.env with frame := ⟨t.count + 1, t.target⟩, answer := some false } }
  else .refused .frameTimerWidth

/-- Frame Timer `reset()` (R336). -/
def frameReset (s : State) : Host.Outcome State Fault Refusal :=
  .next { s with env := { s.env with frame := ⟨0, s.env.frame.target⟩ } }

/-- Frame Timer `update(newTarget)` (R336); a target that `TIMER_WIDTH` bits do not hold is refused (log 11). -/
def frameUpdate (target : Nat) (s : State) : Host.Outcome State Fault Refusal :=
  if target < 2 ^ s.params.timerWidth then .next { s with env := { s.env with frame := ⟨0, target⟩ } }
  else .refused .frameTimerWidth

/-- What the Interval Timer's `check()` answers (R338, R340): `now − start ≥ duration` in `Z` while the clock has not
wrapped since the stamp and the duration is well below the wrap period (log 14), else the free value (log 13). -/
def intervalReady (s : State) : Bool :=
  let t := s.env.interval
  if s.env.wraps = t.startWraps ∧ t.duration < s.params.durationBound then
    decide ((t.duration : Int) ≤ (s.env.clock.toNat : Int) - (t.start.toNat : Int))
  else Config.intervalUnspecified s.env.wraps s.env.clock t.startWraps t.start t.duration

/-- Interval Timer `check()` (R338): a pure read. -/
def intervalCheck (s : State) : Host.Outcome State Fault Refusal :=
  .next { s with env := { s.env with answer := some (intervalReady s) } }

/-- Interval Timer `reset()`: `start <- now()` (R338). -/
def intervalReset (s : State) : Host.Outcome State Fault Refusal :=
  .next { s with env := { s.env with interval := ⟨s.env.wraps, s.env.clock, s.env.interval.duration⟩ } }

/-- Interval Timer `update(newDuration)`: `duration <- newDuration; start <- now()` (R338). -/
def intervalUpdate (duration : Nat) (s : State) : Host.Outcome State Fault Refusal :=
  .next { s with env := { s.env with interval := ⟨s.env.wraps, s.env.clock, duration⟩ } }

/-- `us` microseconds pass: the 32-bit clock goes from 2^32 − 1 to 0 (R339; log 12). -/
def elapse (us : Nat) (s : State) : Host.Outcome State Fault Refusal :=
  let t := s.env.clock.toNat + us
  .next { s with env := { s.env with clock := BitVec.ofNat 32 t, wraps := s.env.wraps + t / 2 ^ 32 } }

end Sys2Proof.Machine
end

