-- ==== Sys2Proof/Machine/Port.lean ====
section
/-! DEFINITION. What the host does to the unit (20_memory.md rule R75): it presents a command word, which the unit
decodes and executes (30_encoding.md rule R101), drives the reset input, touches buffer memory between commands, and
uses its timers. -/

namespace Sys2Proof.Machine

/-- The one word that is executed while `FLT = 1`: URST (R271, R317). -/
def urstWord : Word := 0x02000000#32

/-- A command word is presented (R101): step 1 is the discard of R317; an illegal word raises `Fault(ILLEGAL_CMD)`
(R100); a legal one is executed. -/
def present (w : Word) (s : State) : Host.Outcome State Fault Refusal :=
  if s.flt = true ∧ w ≠ urstWord then .next s.discard
  else
    match decode w with
    | .ok i => exec i s
    | .error _ => .next (s.raise .illegalCmd)

/-- The reset input: URST without a response (R350, R351; log 7). -/
def resetInput (s : State) : Host.Outcome State Fault Refusal := .next { s.resetUnit with resp := none }

/-- The host stores a halfword (R75). An address that names no halfword stops the machine (R60; log 9). -/
def storeHalf (a : Nat) (v : Half) (s : State) : Host.Outcome State Fault Refusal :=
  if a < s.params.memSize then .next (s.storeHalves a [v]) else .fault .noSuchHalfword

/-- The host stores a byte of its own view (R66, R75; log 9). -/
def storeByte (a : Nat) (v : Byte) (s : State) : Host.Outcome State Fault Refusal :=
  if a < 2 * s.params.memSize then .next { s with mem := Mem.setByte s.mem a v } else .fault .noSuchHalfword

/-- One move of the host. -/
def runMove (m : HostMove) (s : State) : Host.Outcome State Fault Refusal :=
  match m with
  | .present w => present w s
  | .resetInput => resetInput s
  | .storeHalf a v => storeHalf a v s
  | .storeByte a v => storeByte a v s
  | .frameCheck => frameCheck s
  | .frameReset => frameReset s
  | .frameUpdate t => frameUpdate t s
  | .intervalCheck => intervalCheck s
  | .intervalReset => intervalReset s
  | .intervalUpdate d => intervalUpdate d s
  | .elapse us => elapse us s

/-- The next move of the host is made and leaves the schedule (log 5). With no move left the unit is idle and keeps all
its state (R75, R342; log 6). -/
def hostStep (s : State) : Host.Outcome State Fault Refusal :=
  match s.host with
  | [] => .next s
  | m :: rest => runMove m { s with host := rest }

/-- The word put first in the host's schedule, so that the next step presents it. -/
def State.presenting (s : State) (w : Word) : State := { s with host := .present w :: s.host }

end Sys2Proof.Machine
end

