-- ==== Sys2Proof/Machine/Step.lean ====
section
/-! DEFINITION. One step of the machine: the host's next move (00_scope.md rules R7, R9). -/

namespace Sys2Proof.Machine

/-- One step. -/
def step (s : State) : Host.Outcome State Fault Refusal := hostStep s

/-- `s` with the host about to present the command word numbered as spec/opcode_table.json numbers it: commands come
from the host, not from memory (R26; log 5). The fault latch stays as it is: in a state with `FLT = 1` the word is
discarded, as R317 says (log 16). -/
def State.withFetchWord (s : State) (nbits w : Nat) : State := s.presenting (tableWord nbits w)

end Sys2Proof.Machine
end

