-- ==== Sys2Proof/Safety.lean ====
section
/-! DEFINITION. The invariant of the machine, and what it means that a step left a part of the state alone. -/

namespace Sys2Proof.Safety

open Sys2Proof.Machine

/-- The control registers hold legal values (10_state.md rules R28, R30-R32), and the places that are no tap registers
under the run's `K_MAX` hold 0 (log 15). -/
def ctlInv (p : Config.Params) (k : Ctl) : Prop :=
  k.sizeX.toNat ≤ 65535 ∧ k.sizeY.toNat ≤ 65535 ∧ k.edge.toNat ≤ 3 ∧
    legalLen p k.kxLen = true ∧ legalLen p k.kyLen = true ∧
    (∀ i : Fin 15, p.kMax.val ≤ i.val → k.kx[i] = 0#32) ∧ (∀ i : Fin 15, p.kMax.val ≤ i.val → k.ky[i] = 0#32)

/-- `FCAUSE` is 0x00 while `FLT = 0` and one of the nine codes while `FLT = 1` (10_state.md rule R35, 60_exceptions.md
rule R311). -/
def latchInv (s : State) : Prop :=
  (s.flt = false → s.fcause = 0x00#8) ∧ (s.flt = true → ∃ c : Cause, s.fcause = causeCode c)

/-- Buffer memory is in canonical form and lists no byte outside `0 … MEM_SIZE − 1` (20_memory.md rule R60). -/
def memInv (s : State) : Prop := Mem.wf s.mem = true ∧ Mem.inside s.params.memSize s.mem = true

/-- The Frame Timer's fields fit `TIMER_WIDTH` bits and `count` has not passed `target` (60_exceptions.md rule R336); the
Interval Timer was not stamped in the future (rule R339). -/
def envInv (s : State) : Prop :=
  s.env.frame.target < 2 ^ s.params.timerWidth ∧ s.env.frame.count ≤ s.env.frame.target ∧
    s.env.interval.startWraps * 2 ^ 32 + s.env.interval.start.toNat ≤ s.env.wraps * 2 ^ 32 + s.env.clock.toNat

/-- The invariant every step keeps. -/
def Inv (s : State) : Prop :=
  s.params.legal = true ∧ ctlInv s.params s.ctl ∧ latchInv s ∧ memInv s ∧ envInv s

/-- Every byte of buffer memory reads as before. -/
def SameMemory (s t : State) : Prop := ∀ a : Nat, t.byteAt a = s.byteAt a

/-- Every byte of buffer memory outside the `n` halfwords from halfword address `a` on reads as before: halfword `h` is
bytes `2h` and `2h + 1` (20_memory.md rule R66). -/
def SameMemoryOutside (a n : Nat) (s t : State) : Prop :=
  ∀ b : Nat, (b < 2 * a ∨ 2 * (a + n) ≤ b) → t.byteAt b = s.byteAt b

/-- Every X register but `d` is as before. -/
def SameXBut (d : XReg) (s t : State) : Prop := ∀ j : XReg, j ≠ d → t.getX j = s.getX j

/-- Every C register but `d` is as before. -/
def SameCBut (d : CReg) (s t : State) : Prop := ∀ j : CReg, j ≠ d → t.getC j = s.getC j

/-- The fault latch, the parameters, the environment and the host's schedule are as before: no command but URST and a
faulting one touches any of them. -/
def SameRest (s t : State) : Prop :=
  t.flt = s.flt ∧ t.fcause = s.fcause ∧ t.params = s.params ∧ t.env = s.env ∧ t.host = s.host

/-- The frame of a command that may write X register `d` and nothing else but the response. -/
def OnlyX (d : XReg) (s t : State) : Prop :=
  SameXBut d s t ∧ t.c = s.c ∧ t.ctl = s.ctl ∧ SameMemory s t ∧ SameRest s t

/-- The frame of a command that may write C register `d` and nothing else but the response. -/
def OnlyC (d : CReg) (s t : State) : Prop :=
  SameCBut d s t ∧ t.x = s.x ∧ t.ctl = s.ctl ∧ SameMemory s t ∧ SameRest s t

/-- The frame of a command that may store into the `n` halfwords from `a` on and change nothing else but the response. -/
def OnlyStores (a n : Nat) (s t : State) : Prop :=
  t.x = s.x ∧ t.c = s.c ∧ t.ctl = s.ctl ∧ SameMemoryOutside a n s t ∧ SameRest s t

/-- The frame of a command that changes nothing but the response. -/
def OnlyResponds (s t : State) : Prop :=
  t.x = s.x ∧ t.c = s.c ∧ t.ctl = s.ctl ∧ SameMemory s t ∧ SameRest s t

/-- `respond(OK, 0)` (30_encoding.md rule R98). -/
def RespondsOk (t : State) : Prop := t.resp = some ⟨.ok, 0#32⟩

/-- `raise Fault(code)` and nothing else (60_exceptions.md rule R316, 10_state.md rule R39): the state before the command
plus the latch and the response, written out field by field. -/
def FaultOf (code : Byte) (s t : State) : Prop :=
  t.flt = true ∧ t.fcause = code ∧ t.resp = some ⟨.fault, code.zeroExtend 32⟩ ∧ t.x = s.x ∧ t.c = s.c ∧
    t.ctl = s.ctl ∧ t.mem = s.mem ∧ t.params = s.params ∧ t.env = s.env ∧ t.host = s.host

/-- A discarded word (60_exceptions.md rule R317): nothing but the response. -/
def DiscardOf (s t : State) : Prop := t = { s with resp := some ⟨.discarded, s.fcause.zeroExtend 32⟩ }

/-- The table of 10_state.md rule R38. -/
def ResetTable (t : State) : Prop :=
  (∀ i : XReg, t.getX i = 0x00000000#32) ∧ (∀ i : CReg, t.getC i = ⟨0#16, 0#16, 0#16⟩) ∧
    t.ctl.src = 0#32 ∧ t.ctl.dst = 0#32 ∧ t.ctl.sizeX = 0#32 ∧ t.ctl.sizeY = 0#32 ∧ t.ctl.edge = 0#32 ∧
    t.ctl.kxLen = 1#32 ∧ t.ctl.kyLen = 1#32 ∧ (∀ i : Fin 15, t.ctl.kx[i] = 0x00000000#32) ∧
    (∀ i : Fin 15, t.ctl.ky[i] = 0x00000000#32) ∧ t.flt = false ∧ t.fcause = 0x00#8

/-- The codes a command can raise after decode: the column "raised by" of 60_exceptions.md rule R311. -/
def faultCodes : Instr → List Byte
  | .crw _ _ => [0x02#8, 0x03#8]
  | .crr _ _ => [0x02#8]
  | .index _ _ _ _ => [0x04#8]
  | .edge _ _ _ _ _ _ => [0x05#8, 0x06#8, 0x08#8]
  | .pld _ _ _ => [0x08#8]
  | .pst _ _ _ => [0x08#8]
  | .hld _ _ _ => [0x08#8]
  | .hst _ _ _ => [0x08#8]
  | .conv => [0x06#8, 0x08#8, 0x09#8]
  | .blur => [0x08#8, 0x09#8]
  | .vcopy _ _ => [0x08#8, 0x09#8]
  | .vtile _ _ _ => [0x07#8, 0x08#8, 0x09#8]
  | .vfill _ _ => [0x08#8]
  | .vadd _ => [0x08#8, 0x09#8]
  | .vfade _ _ _ => [0x08#8, 0x09#8]
  | .vbrt _ _ _ => [0x08#8, 0x09#8]
  | .vblur1 _ _ _ => [0x08#8, 0x09#8]
  | .nop | .urst | .xrd _ | .xli _ _ | .xlh _ _ | .xmov _ _ | .cli _ _ _ | .cmov _ _ | .cget _ _ _ | .cset _ _ _
  | .cadd _ _ _ | .csub _ _ _ | .cmul _ _ _ | .cscale _ _ _ | .clerp _ _ _ _ | .ceq _ _ _ => []

/-- The commands that write an X register, and which one (10_state.md rule R23); URST writes all of them and stands
apart. -/
def writesX : Instr → Option XReg
  | .xli d _ | .xlh d _ | .xmov d _ | .cget d _ _ | .crr d _ | .ceq d _ _ | .index d _ _ _ | .edge d _ _ _ _ _
  | .hld d _ _ => some d
  | .nop | .urst | .xrd _ | .cli _ _ _ | .cmov _ _ | .cset _ _ _ | .crw _ _ | .cadd _ _ _ | .csub _ _ _ | .cmul _ _ _
  | .cscale _ _ _ | .clerp _ _ _ _ | .pld _ _ _ | .pst _ _ _ | .hst _ _ _ | .conv | .blur | .vcopy _ _ | .vtile _ _ _
  | .vfill _ _ | .vadd _ | .vfade _ _ _ | .vbrt _ _ _ | .vblur1 _ _ _ => none

/-- The commands that write a C register, and which one (10_state.md rule R23). -/
def writesC : Instr → Option CReg
  | .cli d _ _ | .cmov d _ | .cset d _ _ | .cadd d _ _ | .csub d _ _ | .cmul d _ _ | .cscale d _ _ | .clerp d _ _ _
  | .pld d _ _ => some d
  | .nop | .urst | .xrd _ | .xli _ _ | .xlh _ _ | .xmov _ _ | .cget _ _ _ | .crw _ _ | .crr _ _ | .ceq _ _ _
  | .index _ _ _ _ | .edge _ _ _ _ _ _ | .pst _ _ _ | .hld _ _ _ | .hst _ _ _ | .conv | .blur | .vcopy _ _
  | .vtile _ _ _ | .vfill _ _ | .vadd _ | .vfade _ _ _ | .vbrt _ _ _ | .vblur1 _ _ _ => none

/-- The commands that write buffer memory (44_moves_memory_control.md, 42_convolution.md, 43_vector_ops.md). -/
def writesMemory : Instr → Bool
  | .pst _ _ _ | .hst _ _ _ | .conv | .blur | .vcopy _ _ | .vtile _ _ _ | .vfill _ _ | .vadd _ | .vfade _ _ _
  | .vbrt _ _ _ | .vblur1 _ _ _ => true
  | .nop | .urst | .xrd _ | .xli _ _ | .xlh _ _ | .xmov _ _ | .cli _ _ _ | .cmov _ _ | .cget _ _ _ | .cset _ _ _
  | .crw _ _ | .crr _ _ | .cadd _ _ _ | .csub _ _ _ | .cmul _ _ _ | .cscale _ _ _ | .clerp _ _ _ _ | .ceq _ _ _
  | .index _ _ _ _ | .edge _ _ _ _ _ _ | .pld _ _ _ | .hld _ _ _ => false

/-- Every halfword of the source range of `m` and of the destination range of `n` halfwords exists (20_memory.md rule
R68). -/
def RangesExist (s : State) (m n : Nat) : Prop :=
  (∀ j : Nat, j < m → s.ctl.src.toNat + j < s.params.memSize) ∧
    (∀ j : Nat, j < n → s.ctl.dst.toNat + j < s.params.memSize)

/-- `S ∩ W = ∅` for a source range of `m` and a destination range of `n` halfwords (20_memory.md rule R76). -/
def RangesDisjoint (s : State) (m n : Nat) : Prop :=
  ∀ i : Nat, i < m → ∀ j : Nat, j < n → s.ctl.src.toNat + i ≠ s.ctl.dst.toNat + j

/-- The conditions under which a vector command with these ranges executes (43_vector_ops.md rule R233). -/
def VectorRuns (s : State) (m n : Nat) : Prop :=
  RangesExist s m n ∧ (RangesDisjoint s m n ∨ s.ctl.src = s.ctl.dst)

/-- A float operand that is NaN or at most zero (40_color_arithmetic.md rule R139). -/
def NanOrAtMostZero (w : Word) : Prop :=
  F32.value w = .nan ∨ F32.value w = .inf true ∨ ∃ u : Int, F32.value w = .num u ∧ u ≤ 0

/-- A float operand that is at least 1: 1.0 is 2^149 units of 2^-149 (40_color_arithmetic.md rules R135, R139). -/
def AtLeastOne (w : Word) : Prop :=
  F32.value w = .inf false ∨ ∃ u : Int, F32.value w = .num u ∧ 2 ^ 149 ≤ u

/-- A grouping of a list of channel values (40_color_arithmetic.md rule R134). -/
inductive SumTree
  | leaf (v : Half)
  | node (l r : SumTree)
  deriving DecidableEq, Repr

/-- The grouping evaluated with saturating addition. -/
def SumTree.eval : SumTree → Half
  | .leaf v => v
  | .node l r => satadd l.eval r.eval

/-- The sum of its leaves in `Z`. -/
def SumTree.total : SumTree → Nat
  | .leaf v => v.toNat
  | .node l r => l.total + r.total

/-- The sample of a tap, in closed form (42_convolution.md rule R202 with 41_addressing_edge.md rules R177-R180): `o` is
the tap's coordinate on an axis of `size` pixels, `here` the coordinate being computed, `at_` the image along the axis. -/
def refSample (p : Config.Params) (policy : Policy) (size here : Nat) (o : Int) (at_ : Nat → Half) : Half :=
  if 0 ≤ o ∧ o < size then at_ o.toNat
  else
    match policy with
    | .black => p.edgeBlack
    | .copy => at_ here
    | .wrap => at_ (if o < 0 then o + size else o - size).toNat
    | .reflect => at_ (if o < 0 then -o - 1 else 2 * size - o - 1).toNat

/-- One axis of a pass in closed form: `min(sum of the contributions in Z, 65535)` (42_convolution.md rule R203). -/
def refSum (p : Config.Params) (policy : Policy) (size here len : Nat) (k : Nat → Word) (at_ : Nat → Half) : Half :=
  BitVec.ofNat 16 (min ((List.range len).map fun (i : Nat) =>
    (scale1 (refSample p policy size here ((here : Int) + ((i : Int) - ((len / 2 : Nat) : Int))) at_) (k i)).toNat).sum
    65535)

/-- The filtered image in closed form (42_convolution.md rules R204-R206). -/
def refConv (p : Config.Params) (policy : Policy) (sizeX sizeY lenX lenY : Nat) (kx ky : Nat → Word)
    (img : Nat → Nat → Nat → Half) (x y ch : Nat) : Half :=
  let passX : Nat → Half := fun y' => refSum p policy sizeX x lenX kx fun x' => img x' y' ch
  match p.combine with
  | .compose => refSum p policy sizeY y lenY ky passX
  | .sum => satadd (passX y) (refSum p policy sizeY y lenY ky fun y' => img x y' ch)

/-- The source image of a buffer of `sizeY` rings (41_addressing_edge.md rule R173). -/
def refSource (s : State) (sizeY x y ch : Nat) : Half := s.halfAt (s.ctl.src.toNat + 3 * (x * sizeY + y) + ch)

/-- Tap `i` of a kernel register file. -/
def tapOf (k : Vector Word 15) (i : Nat) : Word := k.toList.getD i 0#32

/-- What a 4-bit field of a row of 30_encoding.md rule R99 may hold (R94): a register number, a channel number in bits
[1:0], one bit `bsel` or `K`, nothing, or a nibble of the immediate. -/
inductive FieldKind
  | reg
  | chan
  | bit
  | zero
  | imm
  deriving DecidableEq, Repr

/-- R94: the values a field admits. -/
def FieldKind.admits : FieldKind → BitVec 4 → Bool
  | .reg, f => decide (f.toNat ≤ 7)
  | .chan, f => decide (f.toNat ≤ 2)
  | .bit, f => decide (f.toNat ≤ 1)
  | .zero, f => decide (f.toNat = 0)
  | .imm, _ => true

/-- The table of 30_encoding.md rule R99: the opcode, then `D`, `A` (or `SEL`), `B`, `C`, `E`, `M`; the last four are
the immediate in format I. -/
def fieldRows : List (BitVec 8 × List FieldKind) :=
  [
    (0x01#8, [.zero, .zero, .zero, .zero, .zero, .zero]),
    (0x02#8, [.zero, .zero, .zero, .zero, .zero, .zero]),
    (0x03#8, [.zero, .reg, .zero, .zero, .zero, .zero]),
    (0x10#8, [.reg, .zero, .imm, .imm, .imm, .imm]),
    (0x11#8, [.reg, .zero, .imm, .imm, .imm, .imm]),
    (0x12#8, [.reg, .reg, .zero, .zero, .zero, .zero]),
    (0x13#8, [.reg, .chan, .imm, .imm, .imm, .imm]),
    (0x14#8, [.reg, .reg, .zero, .zero, .zero, .zero]),
    (0x15#8, [.reg, .reg, .zero, .zero, .zero, .chan]),
    (0x16#8, [.reg, .reg, .zero, .zero, .zero, .chan]),
    (0x17#8, [.reg, .zero, .imm, .imm, .imm, .imm]),
    (0x18#8, [.reg, .zero, .imm, .imm, .imm, .imm])
  ] ++ [
    (0x20#8, [.reg, .reg, .reg, .zero, .zero, .zero]),
    (0x21#8, [.reg, .reg, .reg, .zero, .zero, .zero]),
    (0x22#8, [.reg, .reg, .reg, .zero, .zero, .zero]),
    (0x23#8, [.reg, .reg, .reg, .zero, .zero, .zero]),
    (0x24#8, [.reg, .reg, .reg, .reg, .zero, .zero]),
    (0x25#8, [.reg, .reg, .reg, .zero, .zero, .zero]),
    (0x30#8, [.reg, .reg, .reg, .reg, .zero, .zero]),
    (0x31#8, [.reg, .reg, .reg, .reg, .reg, .chan]),
    (0x38#8, [.reg, .reg, .zero, .zero, .zero, .bit]),
    (0x39#8, [.reg, .reg, .zero, .zero, .zero, .bit]),
    (0x3A#8, [.reg, .reg, .zero, .zero, .zero, .bit]),
    (0x3B#8, [.reg, .reg, .zero, .zero, .zero, .bit])
  ] ++ [
    (0x40#8, [.zero, .zero, .zero, .zero, .zero, .zero]),
    (0x41#8, [.zero, .zero, .zero, .zero, .zero, .zero]),
    (0x50#8, [.zero, .reg, .zero, .zero, .zero, .bit]),
    (0x51#8, [.zero, .reg, .reg, .zero, .zero, .bit]),
    (0x52#8, [.reg, .reg, .zero, .zero, .zero, .zero]),
    (0x53#8, [.zero, .reg, .zero, .zero, .zero, .zero]),
    (0x54#8, [.zero, .reg, .reg, .zero, .zero, .bit]),
    (0x55#8, [.zero, .reg, .reg, .zero, .zero, .bit]),
    (0x56#8, [.zero, .reg, .reg, .zero, .zero, .bit])
  ]

/-- The fields `D`, `A`, `B`, `C`, `E`, `M` of a word (R92). -/
def fieldsOf (w : Word) : List (BitVec 4) :=
  [w.extractLsb' 20 4, w.extractLsb' 16 4, w.extractLsb' 12 4, w.extractLsb' 8 4, w.extractLsb' 4 4, w.extractLsb' 0 4]

/-- 30_encoding.md rule R100: the opcode is not in the table of R99, or a field holds what R94 forbids it. -/
def IllegalWord (w : Word) : Prop :=
  ∀ row ∈ fieldRows, row.1 = w.extractLsb' 24 8 →
    ∃ kf ∈ row.2.zip (fieldsOf w), FieldKind.admits kf.1 kf.2 = false

/-- One written-out word for each row of 30_encoding.md rule R99 with the command it stands for, and one for each
channel number, base and element kind a row can hold. Those the spec itself writes out stand in the examples of
44_moves_memory_control.md and in 95_test_vectors.md; the others are written from the row's opcode and fields. -/
def specWords : List (Word × Instr) :=
  [
    (0x01000000#32, .nop),
    (0x02000000#32, .urst),
    (0x03020000#32, .xrd 2),
    (0x1010FFFF#32, .xli 1 0xFFFF#16),
    (0x1110ABCD#32, .xlh 1 0xABCD#16),
    (0x12210000#32, .xmov 2 1),
    (0x13000001#32, .cli 0 .red 1#16),
    (0x13010064#32, .cli 0 .green 100#16),
    (0x13120005#32, .cli 1 .blue 5#16),
    (0x14500000#32, .cmov 5 0),
    (0x15150000#32, .cget 1 5 .red),
    (0x15150001#32, .cget 1 5 .green),
    (0x15630002#32, .cget 6 3 .blue),
    (0x16030000#32, .cset 0 3 .red)
  ] ++ [
    (0x16030001#32, .cset 0 3 .green),
    (0x16520002#32, .cset 5 2 .blue),
    (0x17000002#32, .crw 0 2#16),
    (0x18100006#32, .crr 1 6#16),
    (0x20712000#32, .cadd 7 1 2),
    (0x21501000#32, .csub 5 0 1),
    (0x22201000#32, .cmul 2 0 1),
    (0x23323000#32, .cscale 3 2 3),
    (0x24301200#32, .clerp 3 0 1 2),
    (0x25434000#32, .ceq 4 3 4),
    (0x30012300#32, .index 0 1 2 3),
    (0x31012340#32, .edge 0 1 2 3 4 .red),
    (0x31012341#32, .edge 0 1 2 3 4 .green),
    (0x31012342#32, .edge 0 1 2 3 4 .blue)
  ] ++ [
    (0x38010000#32, .pld 0 1 .src),
    (0x38010001#32, .pld 0 1 .dst),
    (0x39310000#32, .pst 3 1 .src),
    (0x39310001#32, .pst 3 1 .dst),
    (0x3A010000#32, .hld 0 1 .src),
    (0x3A010001#32, .hld 0 1 .dst),
    (0x3B210000#32, .hst 2 1 .src),
    (0x3B210001#32, .hst 2 1 .dst),
    (0x40000000#32, .conv),
    (0x41000000#32, .blur),
    (0x50010000#32, .vcopy 1 .raw),
    (0x50010001#32, .vcopy 1 .pix),
    (0x51012000#32, .vtile 1 2 .raw),
    (0x51012001#32, .vtile 1 2 .pix)
  ] ++ [
    (0x52120000#32, .vfill 1 2),
    (0x53060000#32, .vadd 6),
    (0x54012000#32, .vfade 1 2 .raw),
    (0x54012001#32, .vfade 1 2 .pix),
    (0x55012000#32, .vbrt 1 2 .raw),
    (0x55012001#32, .vbrt 1 2 .pix),
    (0x56012000#32, .vblur1 1 2 .raw),
    (0x56012001#32, .vblur1 1 2 .pix)
  ]

end Sys2Proof.Safety
end

