-- ==== Sys2Proof/Certificates/Slice0/Obligations.lean ====
section
/-! DEFINITION. The statements for the provers, from the numbered rules of spec/. The words they are made of stand in
Safety.lean. -/

open Sys2Proof Sys2Proof.Machine Sys2Proof.Safety

/-! ### Encoding -/

/-- Decoding the encoding of any command gives it back, with every operand at every value its type admits
(30_encoding.md rules R90-R95, R99). -/
def Obligations.DecodeOfEncode : Prop := ∀ i : Instr, decode (encode i) = .ok i

/-- A word decodes to at most the one command whose encoding it is: no bit of it is dropped (30_encoding.md rules R94,
R100). -/
def Obligations.EncodeOfDecode : Prop := ∀ (w : Word) (i : Instr), decode w = .ok i → encode i = w

/-- 30_encoding.md rule R101 steps 2 to 4: the decoder, written from the fields of R99, accepts exactly the words that
fit `match`, `mask` and the channel constraint of a row of spec/opcode_table.json. -/
def Obligations.DecoderAcceptsTheOpcodeTable : Prop :=
  ∀ w : Word, (∃ i : Instr, decode w = .ok i) ↔ WellFormed.legal w = true

/-- 30_encoding.md rule R99: the opcode number and the places of the fields, on the written-out words of
`Safety.specWords`. -/
def Obligations.SpecWordsDecode : Prop := ∀ p ∈ specWords, decode p.1 = .ok p.2

/-- A step whose next move presents a legal command word runs exactly that command on the state without the move (unless
the latch discards it), `withFetchWord` puts a word there, and with no move left a step changes nothing (log 6). -/
def Obligations.StepRunsTheDecodedCommand : Prop :=
  (∀ (s : State) (w : Word) (rest : List HostMove) (i : Instr), s.host = .present w :: rest →
      (s.flt = false ∨ w = 0x02000000#32) → decode w = .ok i → step s = exec i { s with host := rest }) ∧
    (∀ (s : State) (nbits w : Nat) (i : Instr), s.flt = false → decodeTableWord nbits w = some i →
      step (s.withFetchWord nbits w) = exec i s) ∧
    ∀ s : State, s.host = [] → step s = .next s

/-! ### Illegal words, the latch, reset -/

/-- 30_encoding.md rule R100: a word whose opcode is not in the table of R99, or that breaks R94, raises
`Fault(ILLEGAL_CMD)`; every other word is one of the 33 commands; the all-zero and the all-one word are illegal. -/
def Obligations.IllegalWordRaisesIllegalCmd : Prop :=
  (∀ (s : State) (w : Word) (rest : List HostMove), s.host = .present w :: rest → s.flt = false → IllegalWord w →
      ∃ t, step s = .next t ∧ FaultOf 0x01#8 { s with host := rest } t) ∧
    (∀ w : Word, IllegalWord w ↔ ¬ ∃ i : Instr, encode i = w) ∧
    IllegalWord 0x00000000#32 ∧ IllegalWord 0xFFFFFFFF#32

/-- 60_exceptions.md rule R317: while `FLT = 1` every word but 0x02000000, legal or illegal, changes no state and is
answered (DISCARDED, FCAUSE). -/
def Obligations.LatchedUnitDiscards : Prop :=
  ∀ (s : State) (w : Word) (rest : List HostMove), s.host = .present w :: rest → s.flt = true → w ≠ 0x02000000#32 →
    ∃ t, step s = .next t ∧ DiscardOf { s with host := rest } t

/-- 60_exceptions.md rule R318: from `FLT = 1`, URST and the reset input put every register and the latch at the reset
value and keep buffer memory, and every other step keeps the latch, its cause and every register. -/
def Obligations.LatchHoldsUntilReset : Prop :=
  ∀ s : State, s.flt = true →
    (∀ rest : List HostMove, s.host = .present 0x02000000#32 :: rest ∨ s.host = .resetInput :: rest →
        ∃ t, step s = .next t ∧ ResetTable t ∧ SameMemory s t) ∧
      ∀ t : State, (∀ rest : List HostMove, s.host ≠ .present 0x02000000#32 :: rest ∧ s.host ≠ .resetInput :: rest) →
        step s = .next t → t.flt = true ∧ t.fcause = s.fcause ∧ t.x = s.x ∧ t.c = s.c ∧ t.ctl = s.ctl

/-- 10_state.md rule R38: the table of reset values, at the launch state, after URST in every state, and after the reset
input in every state; neither touches buffer memory. -/
def Obligations.ResetLeavesTheTable : Prop :=
  ResetTable State.reset ∧
    (∀ s : State, ∃ t, exec .urst s = .next t ∧ ResetTable t ∧ RespondsOk t ∧ SameMemory s t ∧ t.params = s.params ∧
      t.env = s.env ∧ t.host = s.host) ∧
    ∀ (s : State) (rest : List HostMove), s.host = .resetInput :: rest →
      ∃ t, step s = .next t ∧ ResetTable t ∧ SameMemory s t ∧ t.params = s.params ∧ t.env = s.env

/-- 70_reset_and_hazards.md rule R351: URST executes whether `FLT` is 0 or 1, and the reset input differs from it only
in that it produces no response; that no response is `none` in the response register is the model's choice (log 7). -/
def Obligations.ResetInputIsUrstWithoutResponse : Prop :=
  ∀ (s : State) (rest : List HostMove), ∃ t,
    step { s with host := .present 0x02000000#32 :: rest } = .next t ∧ RespondsOk t ∧
      step { s with host := .resetInput :: rest } = .next { t with resp := none }

/-- The launch state meets the invariant of the machine. -/
def Obligations.ResetMeetsTheInvariant : Prop := Inv State.reset

/-- Every step keeps the invariant: legal parameters and control registers, a latch with a code of R311 exactly while it
is set, buffer memory canonical and inside the address space, timers in their range. -/
def Obligations.StepKeepsTheInvariant : Prop := ∀ s t : State, Inv s → step s = .next t → Inv t

/-- 10_state.md rule R39 and 60_exceptions.md rule R316: a command that answers FAULT changes the latch and the response
and nothing else, and one that answers DISCARDED changes nothing. -/
def Obligations.FaultsAndDiscardsChangeNothing : Prop :=
  ∀ (s t : State) (w : Word) (rest : List HostMove) (r : Response), s.host = .present w :: rest → step s = .next t →
    t.resp = some r →
      (r.st = .fault → ∃ code, FaultOf code { s with host := rest } t) ∧
        (r.st = .discarded → DiscardOf { s with host := rest } t)

/-- 60_exceptions.md rule R311, the column "raised by": the cause a command reports is one the table gives it, and it is
the one in `FCAUSE`. -/
def Obligations.CommandsRaiseOnlyTheirCauses : Prop :=
  ∀ (i : Instr) (s t : State) (r : Response), exec i s = .next t → t.resp = some r → r.st = .fault →
    t.fcause ∈ faultCodes i ∧ r.data = t.fcause.zeroExtend 32 ∧ t.flt = true

/-- 30_encoding.md rule R98: every presented word produces one response; OK carries `X[A]` for XRD and 0 for every other
command, FAULT the code now in `FCAUSE`, DISCARDED `FCAUSE`, which happens exactly when `FLT` was 1 and the word is not
URST; the statuses are 0, 1 and 2. -/
def Obligations.EveryPresentedWordIsAnswered : Prop :=
  (∀ (s : State) (w : Word) (rest : List HostMove), s.host = .present w :: rest →
      ∃ t r, step s = .next t ∧ t.resp = some r ∧
        (r.st = .discarded ↔ s.flt = true ∧ w ≠ 0x02000000#32) ∧
        (r.st = .discarded → r.data = s.fcause.zeroExtend 32) ∧
        (r.st = .fault → s.flt = false ∧ t.flt = true ∧ r.data = t.fcause.zeroExtend 32) ∧
        (r.st = .ok → ∃ i, decode w = .ok i ∧ (∀ a, i = .xrd a → r.data = s.getX a) ∧
          ((∀ a, i ≠ .xrd a) → r.data = 0#32))) ∧
    statusCode .ok = 0#2 ∧ statusCode .fault = 1#2 ∧ statusCode .discarded = 2#2

/-! ### Who writes what -/

/-- 10_state.md rule R34: a step that changes a control register is a CRW, a URST or the reset input. -/
def Obligations.ControlRegistersWrittenByCrwAndResetOnly : Prop :=
  ∀ s t : State, step s = .next t → t.ctl ≠ s.ctl →
    (∃ rest, s.host = .resetInput :: rest) ∨
      ∃ w rest, s.host = .present w :: rest ∧ (decode w = .ok .urst ∨ ∃ d cr, decode w = .ok (.crw d cr))

/-- 10_state.md rule R23 and the memory commands of 20_memory.md rule R60: no command but URST changes an X register, a C
register or a byte of memory other than the table says. -/
def Obligations.RegisterFilesWrittenByTheirCommandsOnly : Prop :=
  ∀ (i : Instr) (s t : State), i ≠ .urst → exec i s = .next t →
    (∀ j : XReg, writesX i ≠ some j → t.getX j = s.getX j) ∧ (∀ j : CReg, writesC i ≠ some j → t.getC j = s.getC j) ∧
      (writesMemory i = false → SameMemory s t)

/-- 10_state.md rule R37: the parameters are fixed for a run; and each step takes one move off the host's schedule
(log 5). -/
def Obligations.ParametersNeverChange : Prop :=
  ∀ s t : State, step s = .next t → t.params = s.params ∧ t.host = s.host.tail

/-! ### Arithmetic of channel values -/

/-- 40_color_arithmetic.md rules R131, R132, R133, in `Z`. -/
def Obligations.SaturatingPrimitives : Prop :=
  ∀ a b : Half,
    ((satadd a b).toNat : Int) = min ((a.toNat : Int) + b.toNat) 65535 ∧
      ((satsub a b).toNat : Int) = max ((a.toNat : Int) - b.toNat) 0 ∧
      ((satmul a b).toNat : Int) = min ((a.toNat : Int) * b.toNat) 65535

/-- 40_color_arithmetic.md rule R134. -/
def Obligations.SaturatingSumsRegroup : Prop :=
  (∀ tree : SumTree, tree.eval.toNat = min tree.total 65535) ∧
    (∀ a b c : Half, satadd a b = satadd b a ∧ satadd (satadd a b) c = satadd a (satadd b c) ∧
      satmul a b = satmul b a ∧ satmul (satmul a b) c = satmul a (satmul b c)) ∧
    (∀ a b : Half, satadd a 0#16 = a ∧ satmul a 1#16 = a ∧ satmul a 0#16 = 0#16 ∧ satsub a 0#16 = a ∧
      satsub a a = 0#16 ∧ satsub 0#16 a = 0#16 ∧ (satadd (satsub a b) b).toNat = max a.toNat b.toNat ∧
      max a.toNat b.toNat ≤ (satadd a b).toNat) ∧
    (∃ a b : Half, satsub a b ≠ satsub b a) ∧ ∃ a b c : Half, satsub (satsub a b) c ≠ satsub a (satsub b c)

/-- 40_color_arithmetic.md rule R135, `rne32`: of `n × 2^-(149 + k)` the answer is not NaN and not negative; it is `+∞`
exactly from `2^128 − 2^103` on; otherwise no finite binary32 number is nearer, and if another is as near the answer's
fraction bit 0 is 0. A negative real is rounded by its magnitude, and 0 gives `+0.0`. -/
def Obligations.RoundingIsNearestEven : Prop :=
  (∀ n k : Nat, F32.value (F32.rneNat n k) ≠ .nan ∧ (F32.rneNat n k).msb = false ∧
      (F32.value (F32.rneNat n k) = .inf false ↔ (2 ^ 277 - 2 ^ 252) * 2 ^ k ≤ n) ∧
      ∀ u : Int, F32.value (F32.rneNat n k) = .num u → ∀ (p : Word) (v : Int), F32.value p = .num v →
        |(n : Int) - u * 2 ^ k| ≤ |(n : Int) - v * 2 ^ k| ∧
          (v ≠ u → |(n : Int) - u * 2 ^ k| = |(n : Int) - v * 2 ^ k| → F32.frac (F32.rneNat n k) % 2 = 0)) ∧
    (∀ (z : Int) (k : Nat), z < 0 → F32.rne z k = F32.rne (-z) k ^^^ 0x80000000#32) ∧
    (∀ (n k : Nat), F32.rne n k = F32.rneNat n k) ∧ ∀ k : Nat, F32.rne 0 k = 0x00000000#32

/-- 40_color_arithmetic.md rule R136, line by line; a value `u` is in units of 2^-149. -/
def Obligations.ScaleFollowsItsRule : Prop :=
  ∀ (c : Half) (f : Word),
    (F32.value f = .nan → scale1 c f = 0#16) ∧ (F32.value f = .inf true → scale1 c f = 0#16) ∧
      (∀ u : Int, F32.value f = .num u → u ≤ 0 → scale1 c f = 0#16) ∧ (c = 0#16 → scale1 c f = 0#16) ∧
      (F32.value f = .inf false → c ≠ 0#16 → scale1 c f = 65535#16) ∧
      ∀ u : Int, F32.value f = .num u → 0 < u → c ≠ 0#16 →
        (F32.value (F32.rneNat (c.toNat * u.toNat) 0) = .inf false → scale1 c f = 65535#16) ∧
          ∀ p : Int, F32.value (F32.rneNat (c.toNat * u.toNat) 0) = .num p →
            (65535 * 2 ^ 149 ≤ p → scale1 c f = 65535#16) ∧
              (p < 65535 * 2 ^ 149 → ((scale1 c f).toNat : Int) = p / 2 ^ 149)

/-- 40_color_arithmetic.md rule R137 (a) to (f); (g) holds by the type of `scale1`. 1.0 is 2^149 units. -/
def Obligations.ScaleHasTheRequiredProperties : Prop :=
  ∀ (c : Half) (f : Word),
    scale1 c 0x3F800000#32 = c ∧
      ((∃ u : Int, F32.value f = .num u ∧ u ≤ 0) ∨ F32.value f = .inf true → scale1 c f = 0#16) ∧
      (scale1 c f).toNat ≤ 65535 ∧
      (∀ u : Int, F32.value f = .num u → 65535 * 2 ^ 149 ≤ (c.toNat : Int) * u → scale1 c f = 65535#16) ∧
      (F32.value f = .inf false → c ≠ 0#16 → scale1 c f = 65535#16) ∧ scale1 0#16 f = 0#16 ∧
      ∀ u : Int, F32.value f = .num u → 0 ≤ u → u ≤ 2 ^ 149 → (scale1 c f).toNat ≤ c.toNat

/-- 40_color_arithmetic.md rule R139. -/
def Obligations.ClampToUnitRange : Prop :=
  ∀ t : Word,
    (NanOrAtMostZero t → F32.clampT t = 0x00000000#32) ∧ (AtLeastOne t → F32.clampT t = 0x3F800000#32) ∧
      (¬ NanOrAtMostZero t → ¬ AtLeastOne t → F32.clampT t = t)

/-! ### Colour commands -/

/-- 40_color_arithmetic.md rules R141, R142, R143, in every state and for every choice of registers. -/
def Obligations.AddSubtractMultiply : Prop :=
  ∀ (s : State) (d a b : CReg),
    (∃ t, exec (.cadd d a b) s = .next t ∧ RespondsOk t ∧ OnlyC d s t ∧
        t.getC d = ⟨satadd (s.getC a).r (s.getC b).r, satadd (s.getC a).g (s.getC b).g,
          satadd (s.getC a).b (s.getC b).b⟩) ∧
      (∃ t, exec (.csub d a b) s = .next t ∧ RespondsOk t ∧ OnlyC d s t ∧
        t.getC d = ⟨satsub (s.getC a).r (s.getC b).r, satsub (s.getC a).g (s.getC b).g,
          satsub (s.getC a).b (s.getC b).b⟩) ∧
      ∃ t, exec (.cmul d a b) s = .next t ∧ RespondsOk t ∧ OnlyC d s t ∧
        t.getC d = ⟨satmul (s.getC a).r (s.getC b).r, satmul (s.getC a).g (s.getC b).g,
          satmul (s.getC a).b (s.getC b).b⟩

/-- 40_color_arithmetic.md rule R146. -/
def Obligations.ScaleCommand : Prop :=
  ∀ (s : State) (d a : CReg) (f : XReg), ∃ t, exec (.cscale d a f) s = .next t ∧ RespondsOk t ∧ OnlyC d s t ∧
    t.getC d = ⟨scale1 (s.getC a).r (s.getX f), scale1 (s.getC a).g (s.getX f), scale1 (s.getC a).b (s.getX f)⟩

/-- 40_color_arithmetic.md rule R150, for both values of `LERP_WEIGHTING`; `tc` lies in [0, 1], so `1 − tc` is its units
taken from 2^149. -/
def Obligations.InterpolateCommand : Prop :=
  ∀ (s : State) (d a b : CReg) (x : XReg), ∃ t, exec (.clerp d a b x) s = .next t ∧ RespondsOk t ∧ OnlyC d s t ∧
    ∀ tc u wa wb : Word, tc = F32.clampT (s.getX x) → u = F32.rne (2 ^ 149 - F32.units tc) 0 →
      (s.params.lerp = .tWeightsB → wa = u ∧ wb = tc) → (s.params.lerp = .tWeightsA → wa = tc ∧ wb = u) →
        ∀ ch : Chan, (t.getC d).get ch = satadd (scale1 ((s.getC a).get ch) wa) (scale1 ((s.getC b).get ch) wb)

/-- 40_color_arithmetic.md rule R155 (a), (b), (c), and its last sentence on the other weighting. -/
def Obligations.ScaleAndInterpolationEndpoints : Prop :=
  (∀ (s : State) (d a : CReg) (f : XReg), ∃ t, exec (.cscale d a f) s = .next t ∧
      (s.getX f = 0x3F800000#32 → t.getC d = s.getC a) ∧
      (s.getX f = 0x00000000#32 ∨ F32.value (s.getX f) = .inf true ∨
          (∃ u : Int, F32.value (s.getX f) = .num u ∧ u < 0) → t.getC d = ⟨0#16, 0#16, 0#16⟩)) ∧
    (∀ (s : State) (d a b : CReg) (x : XReg), ∃ t, exec (.clerp d a b x) s = .next t ∧
      (s.params.lerp = .tWeightsB → (s.getX x = 0x00000000#32 → t.getC d = s.getC a) ∧
        (s.getX x = 0x3F800000#32 → t.getC d = s.getC b)) ∧
      (s.params.lerp = .tWeightsA → (s.getX x = 0x00000000#32 → t.getC d = s.getC b) ∧
        (s.getX x = 0x3F800000#32 → t.getC d = s.getC a))) ∧
    ∀ a b : Half, max a.toNat b.toNat ≤ (satadd a b).toNat ∧ (satadd a b = 65535#16 ↔ 65535 ≤ a.toNat + b.toNat)

/-- 40_color_arithmetic.md rule R152. -/
def Obligations.CompareCommand : Prop :=
  ∀ (s : State) (d : XReg) (a b : CReg), ∃ t, exec (.ceq d a b) s = .next t ∧ RespondsOk t ∧ OnlyX d s t ∧
    (s.getC a = s.getC b → t.getX d = 0x00000001#32) ∧ (s.getC a ≠ s.getC b → t.getX d = 0x00000000#32)

/-! ### Moves and unit control -/

/-- 44_moves_memory_control.md rules R275, R276, R277 and 10_state.md rule R21. -/
def Obligations.XRegisterMoves : Prop :=
  ∀ s : State,
    (∀ (d : XReg) (imm : Half), ∃ t, exec (.xli d imm) s = .next t ∧ RespondsOk t ∧ OnlyX d s t ∧
        (t.getX d).toInt = imm.toInt) ∧
      (∀ (d : XReg) (imm : Half), ∃ t, exec (.xlh d imm) s = .next t ∧ RespondsOk t ∧ OnlyX d s t ∧
        (t.getX d).toNat = imm.toNat * 2 ^ 16 + (s.getX d).toNat % 2 ^ 16) ∧
      ∀ d a : XReg, ∃ t, exec (.xmov d a) s = .next t ∧ RespondsOk t ∧ OnlyX d s t ∧ t.getX d = s.getX a

/-- 44_moves_memory_control.md rules R280, R281, R282, R283: a channel write keeps the other two channels. -/
def Obligations.ColourRegisterMoves : Prop :=
  ∀ s : State,
    (∀ (d : CReg) (ch : Chan) (imm : Half), ∃ t, exec (.cli d ch imm) s = .next t ∧ RespondsOk t ∧ OnlyC d s t ∧
        (t.getC d).get ch = imm ∧ ∀ k : Chan, k ≠ ch → (t.getC d).get k = (s.getC d).get k) ∧
      (∀ d a : CReg, ∃ t, exec (.cmov d a) s = .next t ∧ RespondsOk t ∧ OnlyC d s t ∧ t.getC d = s.getC a) ∧
      (∀ (d : XReg) (a : CReg) (ch : Chan), ∃ t, exec (.cget d a ch) s = .next t ∧ RespondsOk t ∧ OnlyX d s t ∧
        (t.getX d).toNat = ((s.getC a).get ch).toNat) ∧
      ∀ (d : CReg) (a : XReg) (ch : Chan), ∃ t, exec (.cset d a ch) s = .next t ∧ RespondsOk t ∧ OnlyC d s t ∧
        ((t.getC d).get ch).toNat = (s.getX a).toNat % 2 ^ 16 ∧
        ∀ k : Chan, k ≠ ch → (t.getC d).get k = (s.getC d).get k

/-- 44_moves_memory_control.md rules R270, R272: NOP and XRD change no register and no memory; XRD's response carries the
register. -/
def Obligations.NopAndReadRegister : Prop :=
  ∀ s : State,
    (∃ t, exec .nop s = .next t ∧ RespondsOk t ∧ OnlyResponds s t) ∧
      ∀ a : XReg, ∃ t, exec (.xrd a) s = .next t ∧ t.resp = some ⟨.ok, s.getX a⟩ ∧ OnlyResponds s t

/-! ### Control registers -/

/-- The table of 10_state.md rule R28: which numbers are assigned, and the legal values of each register. -/
def Obligations.ControlRegisterNumbersAndValues : Prop :=
  ∀ p : Config.Params,
    (ctlName p 0x0000#16 = some .src ∧ ctlName p 0x0001#16 = some .dst ∧ ctlName p 0x0002#16 = some .sizeX ∧
        ctlName p 0x0003#16 = some .sizeY ∧ ctlName p 0x0004#16 = some .edge ∧ ctlName p 0x0005#16 = some .kxLen ∧
        ctlName p 0x0006#16 = some .kyLen) ∧
      (∀ i : Fin 15, i.val < p.kMax.val → ctlName p (BitVec.ofNat 16 (0x0010 + i.val)) = some (.kx i) ∧
        ctlName p (BitVec.ofNat 16 (0x0020 + i.val)) = some (.ky i)) ∧
      (∀ cr : Half, 0x0006 < cr.toNat → (cr.toNat < 0x0010 ∨ 0x0010 + p.kMax.val ≤ cr.toNat) →
        (cr.toNat < 0x0020 ∨ 0x0020 + p.kMax.val ≤ cr.toNat) → ctlName p cr = none) ∧
      ∀ v : Word,
        ctlLegal p .src v = true ∧ ctlLegal p .dst v = true ∧ (ctlLegal p .sizeX v = true ↔ v.toNat ≤ 65535) ∧
          (ctlLegal p .sizeY v = true ↔ v.toNat ≤ 65535) ∧ (ctlLegal p .edge v = true ↔ v.toNat ≤ 3) ∧
          (ctlLegal p .kxLen v = true ↔ v.toNat % 2 = 1 ∧ v.toNat ≤ p.kMax.val) ∧
          (ctlLegal p .kyLen v = true ↔ v.toNat % 2 = 1 ∧ v.toNat ≤ p.kMax.val) ∧
          ∀ i : Fin 15, ctlLegal p (.kx i) v = true ∧ ctlLegal p (.ky i) v = true

/-- 44_moves_memory_control.md rules R292, R293: `CR_NUMBER` for an unassigned number, then `CR_VALUE` for a value that is
not legal, else the register is written or read and nothing else. -/
def Obligations.ControlRegisterAccess : Prop :=
  ∀ (s : State) (d : XReg) (cr : Half),
    (ctlName s.params cr = none →
        (∃ t, exec (.crw d cr) s = .next t ∧ FaultOf 0x02#8 s t) ∧
          ∃ t, exec (.crr d cr) s = .next t ∧ FaultOf 0x02#8 s t) ∧
      ∀ name : CtlName, ctlName s.params cr = some name →
        (ctlLegal s.params name (s.getX d) = false → ∃ t, exec (.crw d cr) s = .next t ∧ FaultOf 0x03#8 s t) ∧
          (ctlLegal s.params name (s.getX d) = true → ∃ t, exec (.crw d cr) s = .next t ∧ RespondsOk t ∧
            t.ctl.get name = s.getX d ∧ (∀ other : CtlName, other ≠ name → t.ctl.get other = s.ctl.get other) ∧
            t.x = s.x ∧ t.c = s.c ∧ SameMemory s t ∧ SameRest s t) ∧
          ∃ t, exec (.crr d cr) s = .next t ∧ RespondsOk t ∧ OnlyX d s t ∧ t.getX d = s.ctl.get name

/-- 10_state.md rule R28, "A read returns exactly the last value written (or the reset value)": what CRR reads under a
number changes only by an accepted CRW of that number, to the value written, and by URST, to the reset value. It speaks of
`exec`, which does not look at `FLT` (the model's choice, log 16): after a command that faulted, a refused CRW among them,
a step would discard the CRR (60_exceptions.md rule R317), and what is said there is what the register still holds. -/
def Obligations.ControlReadReturnsLastWrite : Prop :=
  ∀ (i : Instr) (s t u : State) (e : XReg) (cr : Half) (name : CtlName), ctlName s.params cr = some name →
    exec i s = .next t → exec (.crr e cr) t = .next u →
      (∀ d : XReg, i = .crw d cr → ctlLegal s.params name (s.getX d) = true → u.getX e = s.getX d) ∧
        (i = .urst → u.getX e = Ctl.reset.get name) ∧
        (i ≠ .urst → (∀ d : XReg, i = .crw d cr → ctlLegal s.params name (s.getX d) = false) →
          u.getX e = s.ctl.get name)

/-! ### Addressing and edge handling -/

/-- 41_addressing_edge.md rule R174: the low 32 bits of `n × column + ring`, or `RING_RANGE`. -/
def Obligations.IndexCommand : Prop :=
  ∀ (s : State) (d n col ring : XReg),
    (0 ≤ (s.getX ring).toInt ∧ (s.getX ring).toInt < (s.getX n).toInt →
        ∃ t, exec (.index d n col ring) s = .next t ∧ RespondsOk t ∧ OnlyX d s t ∧
          ((t.getX d).toNat : Int) =
            ((s.getX n).toInt * (s.getX col).toInt + (s.getX ring).toInt) % 2 ^ 32) ∧
      (¬ (0 ≤ (s.getX ring).toInt ∧ (s.getX ring).toInt < (s.getX n).toInt) →
        ∃ t, exec (.index d n col ring) s = .next t ∧ FaultOf 0x04#8 s t)

/-- 41_addressing_edge.md rules R177, R178: the folds, and that they land in range exactly for
`−size ≤ v < 2 × size`; outside that `resolve` raises `EDGE_RANGE`. -/
def Obligations.FoldsLandInRangeExactly : Prop :=
  ∀ v size : Int, 0 ≤ size →
    ((0 ≤ v ∧ v < size → wrap1 v size = v ∧ refl1 v size = v) ∧
        (v < 0 → wrap1 v size = v + size ∧ refl1 v size = -v - 1) ∧
        (size ≤ v → 0 ≤ v → wrap1 v size = v - size ∧ refl1 v size = 2 * size - v - 1)) ∧
      ((0 ≤ wrap1 v size ∧ wrap1 v size < size) ↔ (-size ≤ v ∧ v < 2 * size)) ∧
      ((0 ≤ refl1 v size ∧ refl1 v size < size) ↔ (-size ≤ v ∧ v < 2 * size)) ∧
      ∀ (p : Config.Params) (policy : Policy) (o other fx fy : Int), policy = .wrap ∨ policy = .reflect →
        0 ≤ o ∧ o < other → ¬ (-size ≤ v ∧ v < 2 * size) →
          resolve p policy v o fx fy size other = .fault .edgeRange ∧
            resolve p policy o v fx fy other size = .fault .edgeRange

/-- 41_addressing_edge.md rules R176, R179, R180, R181, R183, case by case. -/
def Obligations.ResolveFollowsItsRule : Prop :=
  ∀ (p : Config.Params) (policy : Policy) (ox oy fx fy sx sy : Int),
    (¬ (0 ≤ ox ∧ ox < sx) → ¬ (0 ≤ oy ∧ oy < sy) → resolve p policy ox oy fx fy sx sy = .fault .edgeTwoAxis) ∧
      (0 ≤ ox ∧ ox < sx → 0 ≤ oy ∧ oy < sy → resolve p policy ox oy fx fy sx sy = .coord ox oy) ∧
      ((0 ≤ ox ∧ ox < sx ↔ ¬ (0 ≤ oy ∧ oy < sy)) →
        resolve p .black ox oy fx fy sx sy = .value p.edgeBlack ∧
          (0 ≤ fx ∧ fx < sx ∧ 0 ≤ fy ∧ fy < sy → resolve p .copy ox oy fx fy sx sy = .coord fx fy) ∧
          (¬ (0 ≤ fx ∧ fx < sx ∧ 0 ≤ fy ∧ fy < sy) → resolve p .copy ox oy fx fy sx sy = .fault .edgeRange) ∧
          (0 ≤ wrap1 ox sx ∧ wrap1 ox sx < sx ∧ 0 ≤ wrap1 oy sy ∧ wrap1 oy sy < sy →
            resolve p .wrap ox oy fx fy sx sy = .coord (wrap1 ox sx) (wrap1 oy sy)) ∧
          (¬ (0 ≤ wrap1 ox sx ∧ wrap1 ox sx < sx ∧ 0 ≤ wrap1 oy sy ∧ wrap1 oy sy < sy) →
            resolve p .wrap ox oy fx fy sx sy = .fault .edgeRange) ∧
          (0 ≤ refl1 ox sx ∧ refl1 ox sx < sx ∧ 0 ≤ refl1 oy sy ∧ refl1 oy sy < sy →
            resolve p .reflect ox oy fx fy sx sy = .coord (refl1 ox sx) (refl1 oy sy)) ∧
          (¬ (0 ≤ refl1 ox sx ∧ refl1 ox sx < sx ∧ 0 ≤ refl1 oy sy ∧ refl1 oy sy < sy) →
            resolve p .reflect ox oy fx fy sx sy = .fault .edgeRange))

/-- 41_addressing_edge.md rule R182: the sample of the resolved coordinate, or the value without a memory access, or the
first of `EDGE_TWO_AXIS`, `EDGE_RANGE`, `MEM_RANGE`; the policy is the one that bits [1:0] of `EDGE` number (10_state.md
rule R31) and a channel is numbered 0 red, 1 green, 2 blue (rule R22). -/
def Obligations.EdgeFetchesTheSample : Prop :=
  (∀ e : Word, (e.extractLsb' 0 2 = 0#2 → policyOf e = .wrap) ∧ (e.extractLsb' 0 2 = 1#2 → policyOf e = .reflect) ∧
      (e.extractLsb' 0 2 = 2#2 → policyOf e = .copy) ∧ (e.extractLsb' 0 2 = 3#2 → policyOf e = .black)) ∧
    (chanNum .red = 0 ∧ chanNum .green = 1 ∧ chanNum .blue = 2) ∧
    ∀ (s : State) (d ox oy fx fy : XReg) (ch : Chan) (r : Resolved),
      r = resolve s.params (policyOf s.ctl.edge) (s.getX ox).toInt (s.getX oy).toInt (s.getX fx).toInt (s.getX fy).toInt
          s.ctl.sizeX.toNat s.ctl.sizeY.toNat →
        (r = .fault .edgeTwoAxis → ∃ t, exec (.edge d ox oy fx fy ch) s = .next t ∧ FaultOf 0x05#8 s t) ∧
          (r = .fault .edgeRange → ∃ t, exec (.edge d ox oy fx fy ch) s = .next t ∧ FaultOf 0x06#8 s t) ∧
          (∀ c : Cause, r = .fault c → c = .edgeTwoAxis ∨ c = .edgeRange) ∧
          (∀ v : Half, r = .value v → ∃ t, exec (.edge d ox oy fx fy ch) s = .next t ∧ RespondsOk t ∧ OnlyX d s t ∧
            t.getX d = v.zeroExtend 32) ∧
          ∀ cx cy : Int, r = .coord cx cy →
            ∃ addr : Nat, (addr : Int) = s.ctl.src.toNat + 3 * (cx * s.ctl.sizeY.toNat + cy) + chanNum ch ∧
              (addr < s.params.memSize → ∃ t, exec (.edge d ox oy fx fy ch) s = .next t ∧ RespondsOk t ∧ OnlyX d s t ∧
                t.getX d = (s.halfAt addr).zeroExtend 32) ∧
              (s.params.memSize ≤ addr → ∃ t, exec (.edge d ox oy fx fy ch) s = .next t ∧ FaultOf 0x08#8 s t)

/-! ### Convolution -/

/-- 42_convolution.md rule R207: for a non-empty buffer CONV raises `EDGE_RANGE` exactly when the policy is Wrap or
Reflect and a radius is larger than its axis, which is exactly when some `resolve` call of a pass would raise it. -/
def Obligations.RadiusCheckIsExact : Prop :=
  ∀ s : State, s.ctl.sizeX ≠ 0#32 → s.ctl.sizeY ≠ 0#32 →
    ((∃ t, exec .conv s = .next t ∧ FaultOf 0x06#8 s t) ↔
        (policyOf s.ctl.edge = .wrap ∨ policyOf s.ctl.edge = .reflect) ∧
          (s.ctl.sizeX.toNat < s.ctl.kxLen.toNat / 2 ∨ s.ctl.sizeY.toNat < s.ctl.kyLen.toNat / 2)) ∧
      ((∃ t, exec .conv s = .next t ∧ FaultOf 0x06#8 s t) ↔
        ∃ x y : Nat, x < s.ctl.sizeX.toNat ∧ y < s.ctl.sizeY.toNat ∧
          ((∃ i : Nat, i < s.ctl.kxLen.toNat ∧
              resolve s.params (policyOf s.ctl.edge) ((x : Int) + i - (s.ctl.kxLen.toNat / 2 : Nat)) y x y
                s.ctl.sizeX.toNat s.ctl.sizeY.toNat = .fault .edgeRange) ∨
            ∃ i : Nat, i < s.ctl.kyLen.toNat ∧
              resolve s.params (policyOf s.ctl.edge) x ((y : Int) + i - (s.ctl.kyLen.toNat / 2 : Nat)) x y
                s.ctl.sizeX.toNat s.ctl.sizeY.toNat = .fault .edgeRange))

/-- 42_convolution.md rules R203, R204, R206: when no radius is too large, the tap by tap pipeline answers, at every place
of the buffer and without a fault, the closed form in which each pass is one sum in `Z` clipped at 65535. -/
def Obligations.PassesAreClippedSums : Prop :=
  ∀ (p : Config.Params) (u : ConvSetup) (img : Nat → Nat → Nat → Half) (x y ch : Nat), radiusTooLarge u = false →
    x < u.sizeX → y < u.sizeY →
      convImage p u (fun x' y' ch' => .ok (img x' y' ch')) x y ch =
        .ok (refConv p u.policy u.sizeX u.sizeY u.kx.length u.ky.length (fun i => u.kx.getD i 0#32)
          (fun i => u.ky.getD i 0#32) img x y ch)

/-- 42_convolution.md rule R205: CONV on ranges that exist and are disjoint overwrites the destination with the filtered
source, whatever stood there, and changes nothing else. -/
def Obligations.ConvolutionResult : Prop :=
  ∀ (s : State) (sizeX sizeY n : Nat), sizeX = s.ctl.sizeX.toNat → sizeY = s.ctl.sizeY.toNat → n = sizeX * sizeY →
    n ≠ 0 → Mem.wf s.mem = true →
    (policyOf s.ctl.edge = .wrap ∨ policyOf s.ctl.edge = .reflect →
      s.ctl.kxLen.toNat / 2 ≤ sizeX ∧ s.ctl.kyLen.toNat / 2 ≤ sizeY) →
    RangesExist s (3 * n) (3 * n) → RangesDisjoint s (3 * n) (3 * n) →
      ∃ t, exec .conv s = .next t ∧ RespondsOk t ∧ OnlyStores s.ctl.dst.toNat (3 * n) s t ∧
        ∀ x y ch : Nat, x < sizeX → y < sizeY → ch < 3 →
          t.halfAt (s.ctl.dst.toNat + 3 * (x * sizeY + y) + ch) =
            refConv s.params (policyOf s.ctl.edge) sizeX sizeY s.ctl.kxLen.toNat s.ctl.kyLen.toNat (tapOf s.ctl.kx)
              (tapOf s.ctl.ky) (refSource s sizeY) x y ch

/-- 42_convolution.md rule R217: one tap 1.0 on both axes copies every pixel under `COMPOSE`, edges included and under any
policy, and doubles it with saturation under `SUM`. -/
def Obligations.IdentityKernelCopies : Prop :=
  ∀ (s : State) (n : Nat), n = s.ctl.sizeX.toNat * s.ctl.sizeY.toNat → n ≠ 0 → Mem.wf s.mem = true →
    s.ctl.kxLen = 1#32 → s.ctl.kyLen = 1#32 → s.ctl.kx[0] = 0x3F800000#32 → s.ctl.ky[0] = 0x3F800000#32 →
    RangesExist s (3 * n) (3 * n) → RangesDisjoint s (3 * n) (3 * n) →
      ∃ t, exec .conv s = .next t ∧ RespondsOk t ∧ OnlyStores s.ctl.dst.toNat (3 * n) s t ∧
        ∀ j : Nat, j < 3 * n →
          (s.params.combine = .compose → t.halfAt (s.ctl.dst.toNat + j) = s.halfAt (s.ctl.src.toNat + j)) ∧
            (s.params.combine = .sum → t.halfAt (s.ctl.dst.toNat + j) =
              satadd (s.halfAt (s.ctl.src.toNat + j)) (s.halfAt (s.ctl.src.toNat + j)))

/-- 42_convolution.md rule R212: on an empty buffer CONV and BLUR respond OK and do nothing else, whatever the kernels,
the addresses and the policy. -/
def Obligations.EmptyBufferDoesNothing : Prop :=
  ∀ s : State, s.ctl.sizeX = 0#32 ∨ s.ctl.sizeY = 0#32 →
    exec .conv s = .next { s with resp := some ⟨.ok, 0#32⟩ } ∧ exec .blur s = .next { s with resp := some ⟨.ok, 0#32⟩ }

/-- 42_convolution.md rules R205, R209, R215 and 60_exceptions.md rule R313: `EDGE_RANGE` (CONV), then `MEM_RANGE`, then
`OVERLAP`, on a non-empty buffer. -/
def Obligations.ConvolutionFaultOrder : Prop :=
  ∀ (s : State) (n : Nat), n = s.ctl.sizeX.toNat * s.ctl.sizeY.toNat → n ≠ 0 →
    (∀ i : Instr, i = .conv ∧
            ¬ ((policyOf s.ctl.edge = .wrap ∨ policyOf s.ctl.edge = .reflect) ∧
              (s.ctl.sizeX.toNat < s.ctl.kxLen.toNat / 2 ∨ s.ctl.sizeY.toNat < s.ctl.kyLen.toNat / 2)) ∨ i = .blur →
          (¬ RangesExist s (3 * n) (3 * n) → ∃ t, exec i s = .next t ∧ FaultOf 0x08#8 s t) ∧
            (RangesExist s (3 * n) (3 * n) → ¬ RangesDisjoint s (3 * n) (3 * n) →
              ∃ t, exec i s = .next t ∧ FaultOf 0x09#8 s t)) ∧
      ((policyOf s.ctl.edge = .wrap ∨ policyOf s.ctl.edge = .reflect) ∧
          (s.ctl.sizeX.toNat < s.ctl.kxLen.toNat / 2 ∨ s.ctl.sizeY.toNat < s.ctl.kyLen.toNat / 2) →
        ∃ t, exec .conv s = .next t ∧ FaultOf 0x06#8 s t)

/-- 42_convolution.md rule R215: BLUR is the pipeline with policy Black and three taps 0x3EAAAAAB on both axes; it reads
neither `EDGE` nor the kernels. -/
def Obligations.BoxBlurResult : Prop :=
  ∀ (s : State) (sizeX sizeY n : Nat), sizeX = s.ctl.sizeX.toNat → sizeY = s.ctl.sizeY.toNat → n = sizeX * sizeY →
    n ≠ 0 → Mem.wf s.mem = true → RangesExist s (3 * n) (3 * n) → RangesDisjoint s (3 * n) (3 * n) →
      ∃ t, exec .blur s = .next t ∧ RespondsOk t ∧ OnlyStores s.ctl.dst.toNat (3 * n) s t ∧
        ∀ x y ch : Nat, x < sizeX → y < sizeY → ch < 3 →
          t.halfAt (s.ctl.dst.toNat + 3 * (x * sizeY + y) + ch) =
            refConv s.params .black sizeX sizeY 3 3 (fun _ => 0x3EAAAAAB#32) (fun _ => 0x3EAAAAAB#32)
              (refSource s sizeY) x y ch

/-- 42_convolution.md rule R210: what the destination held before has no influence: two states with the same control
registers, parameters and source buffer get the same response and the same destination buffer. -/
def Obligations.ConvolutionIgnoresOldDestination : Prop :=
  ∀ (i : Instr) (s₁ s₂ t₁ t₂ : State) (n : Nat), i = .conv ∨ i = .blur →
    n = s₁.ctl.sizeX.toNat * s₁.ctl.sizeY.toNat → s₂.ctl = s₁.ctl → s₂.params = s₁.params →
    Mem.wf s₁.mem = true → Mem.wf s₂.mem = true →
    (∀ j : Nat, j < 3 * n → s₂.halfAt (s₁.ctl.src.toNat + j) = s₁.halfAt (s₁.ctl.src.toNat + j)) →
    exec i s₁ = .next t₁ → exec i s₂ = .next t₂ →
      t₂.resp = t₁.resp ∧
        (RespondsOk t₁ → ∀ j : Nat, j < 3 * n →
          t₂.halfAt (s₁.ctl.dst.toNat + j) = t₁.halfAt (s₁.ctl.dst.toNat + j))

/-- 42_convolution.md rule R218 (a): under `COMPOSE` BLUR gives an interior pixel of a buffer uniform in the channel value
`c` the value `c − (c mod 3)`; under `SUM` (rule R205) it is the saturated sum of two passes that each give that value. -/
def Obligations.UniformInteriorUnderBlur : Prop :=
  ∀ (s : State) (sizeX sizeY n ch : Nat) (c : Half), sizeX = s.ctl.sizeX.toNat → sizeY = s.ctl.sizeY.toNat →
    n = sizeX * sizeY → ch < 3 → Mem.wf s.mem = true → RangesExist s (3 * n) (3 * n) →
    RangesDisjoint s (3 * n) (3 * n) →
    (∀ x y : Nat, x < sizeX → y < sizeY → s.halfAt (s.ctl.src.toNat + 3 * (x * sizeY + y) + ch) = c) →
      ∃ t, exec .blur s = .next t ∧ RespondsOk t ∧
        ∀ x y : Nat, 1 ≤ x → x + 2 ≤ sizeX → 1 ≤ y → y + 2 ≤ sizeY →
          (s.params.combine = .compose →
              (t.halfAt (s.ctl.dst.toNat + 3 * (x * sizeY + y) + ch)).toNat = c.toNat - c.toNat % 3) ∧
            (s.params.combine = .sum →
              (t.halfAt (s.ctl.dst.toNat + 3 * (x * sizeY + y) + ch)).toNat =
                min (2 * (c.toNat - c.toNat % 3)) 65535)

/-! ### Pixels and halfwords -/

/-- 44_moves_memory_control.md rules R296, R297, R299, for both bases: a pixel is three halfwords red, green, blue, and a
halfword is zero-extended. -/
def Obligations.LoadCommands : Prop :=
  ∀ (s : State) (a : XReg) (base : Base) (b : Nat),
    b = (match base with | .src => s.ctl.src.toNat | .dst => s.ctl.dst.toNat) →
      (∀ d : CReg, b + 3 * (s.getX a).toNat + 2 < s.params.memSize →
          ∃ t, exec (.pld d a base) s = .next t ∧ RespondsOk t ∧ OnlyC d s t ∧
            t.getC d = ⟨s.halfAt (b + 3 * (s.getX a).toNat), s.halfAt (b + 3 * (s.getX a).toNat + 1),
              s.halfAt (b + 3 * (s.getX a).toNat + 2)⟩) ∧
        ∀ d : XReg, b + (s.getX a).toNat < s.params.memSize →
          ∃ t, exec (.hld d a base) s = .next t ∧ RespondsOk t ∧ OnlyX d s t ∧
            t.getX d = (s.halfAt (b + (s.getX a).toNat)).zeroExtend 32

/-- 44_moves_memory_control.md rules R296, R298, R300, for both bases: the pixel's three halfwords, or the low 16 bits of
the data register, are stored where the operand points and every other byte stays. -/
def Obligations.StoreCommands : Prop :=
  ∀ (s : State) (a : XReg) (base : Base) (b : Nat), Mem.wf s.mem = true →
    b = (match base with | .src => s.ctl.src.toNat | .dst => s.ctl.dst.toNat) →
      (∀ d : CReg, b + 3 * (s.getX a).toNat + 2 < s.params.memSize →
          ∃ t, exec (.pst d a base) s = .next t ∧ RespondsOk t ∧ OnlyStores (b + 3 * (s.getX a).toNat) 3 s t ∧
            t.halfAt (b + 3 * (s.getX a).toNat) = (s.getC d).r ∧
            t.halfAt (b + 3 * (s.getX a).toNat + 1) = (s.getC d).g ∧
            t.halfAt (b + 3 * (s.getX a).toNat + 2) = (s.getC d).b) ∧
        ∀ d : XReg, b + (s.getX a).toNat < s.params.memSize →
          ∃ t, exec (.hst d a base) s = .next t ∧ RespondsOk t ∧ OnlyStores (b + (s.getX a).toNat) 1 s t ∧
            (t.halfAt (b + (s.getX a).toNat)).toNat = (s.getX d).toNat % 2 ^ 16

/-- 20_memory.md rule R68 for PLD, PST, HLD, HST: an address outside memory raises `MEM_RANGE` and nothing is read or
written; the sum is formed in `Z` and does not wrap. -/
def Obligations.AccessOutsideMemoryFaults : Prop :=
  ∀ (s : State) (a : XReg) (base : Base) (b : Nat),
    b = (match base with | .src => s.ctl.src.toNat | .dst => s.ctl.dst.toNat) →
      (∀ d : CReg, s.params.memSize ≤ b + 3 * (s.getX a).toNat + 2 →
          (∃ t, exec (.pld d a base) s = .next t ∧ FaultOf 0x08#8 s t) ∧
            ∃ t, exec (.pst d a base) s = .next t ∧ FaultOf 0x08#8 s t) ∧
        ∀ d : XReg, s.params.memSize ≤ b + (s.getX a).toNat →
          (∃ t, exec (.hld d a base) s = .next t ∧ FaultOf 0x08#8 s t) ∧
            ∃ t, exec (.hst d a base) s = .next t ∧ FaultOf 0x08#8 s t

/-! ### Vector operations -/

/-- 43_vector_ops.md rules R235, R244, R247, R250: each destination halfword from the old source halfword at the same
place (VADD: also the old destination halfword, modulo 2^16), also in place; nothing else changes. An element is one
halfword under RAW and three under PIX (rule R231). -/
def Obligations.ElementwiseVectorResults : Prop :=
  (elemSize .raw = 1 ∧ elemSize .pix = 3) ∧
    ∀ (s : State) (n amt : XReg) (k : Elem), Mem.wf s.mem = true →
      (VectorRuns s (elemSize k * (s.getX n).toNat) (elemSize k * (s.getX n).toNat) →
          (∃ t, exec (.vcopy n k) s = .next t ∧ RespondsOk t ∧
              OnlyStores s.ctl.dst.toNat (elemSize k * (s.getX n).toNat) s t ∧
              ∀ j : Nat, j < elemSize k * (s.getX n).toNat →
                t.halfAt (s.ctl.dst.toNat + j) = s.halfAt (s.ctl.src.toNat + j)) ∧
            (∃ t, exec (.vfade n amt k) s = .next t ∧ RespondsOk t ∧
              OnlyStores s.ctl.dst.toNat (elemSize k * (s.getX n).toNat) s t ∧
              ∀ j : Nat, j < elemSize k * (s.getX n).toNat →
                t.halfAt (s.ctl.dst.toNat + j) =
                  satsub (s.halfAt (s.ctl.src.toNat + j)) (BitVec.ofNat 16 (s.getX amt).toNat)) ∧
            ∃ t, exec (.vbrt n amt k) s = .next t ∧ RespondsOk t ∧
              OnlyStores s.ctl.dst.toNat (elemSize k * (s.getX n).toNat) s t ∧
              ∀ j : Nat, j < elemSize k * (s.getX n).toNat →
                t.halfAt (s.ctl.dst.toNat + j) =
                  satadd (s.halfAt (s.ctl.src.toNat + j)) (BitVec.ofNat 16 (s.getX amt).toNat)) ∧
        (VectorRuns s (s.getX n).toNat (s.getX n).toNat →
          ∃ t, exec (.vadd n) s = .next t ∧ RespondsOk t ∧ OnlyStores s.ctl.dst.toNat (s.getX n).toNat s t ∧
            ∀ j : Nat, j < (s.getX n).toNat →
              (t.halfAt (s.ctl.dst.toNat + j)).toNat =
                ((s.halfAt (s.ctl.dst.toNat + j)).toNat + (s.halfAt (s.ctl.src.toNat + j)).toNat) % 65536)

/-- 43_vector_ops.md rules R238, R241: VTILE repeats the first `m` source elements, VFILL one colour. -/
def Obligations.TileAndFillResults : Prop :=
  ∀ (s : State) (n : XReg), Mem.wf s.mem = true →
    (∀ (m : XReg) (k : Elem), s.getX m ≠ 0#32 →
        VectorRuns s (elemSize k * min (s.getX n).toNat (s.getX m).toNat) (elemSize k * (s.getX n).toNat) →
          ∃ t, exec (.vtile n m k) s = .next t ∧ RespondsOk t ∧
            OnlyStores s.ctl.dst.toNat (elemSize k * (s.getX n).toNat) s t ∧
            ∀ i c : Nat, i < (s.getX n).toNat → c < elemSize k →
              t.halfAt (s.ctl.dst.toNat + elemSize k * i + c) =
                s.halfAt (s.ctl.src.toNat + elemSize k * (i % (s.getX m).toNat) + c)) ∧
      ∀ d : CReg, (∀ j : Nat, j < 3 * (s.getX n).toNat → s.ctl.dst.toNat + j < s.params.memSize) →
        ∃ t, exec (.vfill d n) s = .next t ∧ RespondsOk t ∧ OnlyStores s.ctl.dst.toNat (3 * (s.getX n).toNat) s t ∧
          ∀ i : Nat, i < (s.getX n).toNat →
            t.halfAt (s.ctl.dst.toNat + 3 * i) = (s.getC d).r ∧
              t.halfAt (s.ctl.dst.toNat + 3 * i + 1) = (s.getC d).g ∧
              t.halfAt (s.ctl.dst.toNat + 3 * i + 2) = (s.getC d).b

/-- 43_vector_ops.md rule R260, for the weights of R262: the three contributions of an element and its neighbours on the
ring, saturated. -/
def Obligations.CircularBlurResult : Prop :=
  ∀ (s : State) (n amt : XReg) (k : Elem) (wc ws : Word), Mem.wf s.mem = true →
    (wc, ws) = blurWeights (s.getX amt) →
    VectorRuns s (elemSize k * (s.getX n).toNat) (elemSize k * (s.getX n).toNat) →
      ∃ t, exec (.vblur1 n amt k) s = .next t ∧ RespondsOk t ∧
        OnlyStores s.ctl.dst.toNat (elemSize k * (s.getX n).toNat) s t ∧
        ∀ i c l r : Nat, i < (s.getX n).toNat → c < elemSize k → (l : Int) = ((i : Int) - 1) % (s.getX n).toNat →
          r = (i + 1) % (s.getX n).toNat →
            t.halfAt (s.ctl.dst.toNat + elemSize k * i + c) =
              satadd (satadd (scale1 (s.halfAt (s.ctl.src.toNat + elemSize k * i + c)) wc)
                (scale1 (s.halfAt (s.ctl.src.toNat + elemSize k * l + c)) ws))
                (scale1 (s.halfAt (s.ctl.src.toNat + elemSize k * r + c)) ws)

/-- 43_vector_ops.md rule R262: the weights, each value rounded as the rule says, and the three values the rule gives. -/
def Obligations.CircularBlurWeights : Prop :=
  (∀ amount a s0 ws wsp wc : Word, a = F32.clampT amount →
      s0 = F32.rne (F32.units a * F32.units 0x3EAAAAAB#32) 149 →
      ws = F32.rne (F32.units s0 - F32.units 0x3D4CCCCD#32) 0 →
      (0 < F32.units ws → wsp = ws) → (F32.units ws ≤ 0 → wsp = 0x00000000#32) →
      wc = F32.rne (2 ^ 149 - 2 * F32.units wsp) 0 → blurWeights amount = (wc, ws)) ∧
    blurWeights 0x00000000#32 = (0x3F800000#32, 0xBD4CCCCD#32) ∧
    blurWeights 0x3F000000#32 = (0x3F444444#32, 0x3DEEEEF0#32) ∧
    ∀ amount : Word, AtLeastOne amount → blurWeights amount = (0x3EDDDDDE#32, 0x3E911111#32)

/-- 43_vector_ops.md rule R263: amount `+0.0` gives a centre weight of exactly 1.0 and a side weight that contributes 0
for every sample, so VBLUR1 copies the source. -/
def Obligations.BlurAmountZeroCopies : Prop :=
  (blurWeights 0x00000000#32).1 = 0x3F800000#32 ∧ (∀ c : Half, scale1 c (blurWeights 0x00000000#32).2 = 0#16) ∧
    ∀ (s : State) (n amt : XReg) (k : Elem), Mem.wf s.mem = true → s.getX amt = 0x00000000#32 →
      VectorRuns s (elemSize k * (s.getX n).toNat) (elemSize k * (s.getX n).toNat) →
        ∃ t, exec (.vblur1 n amt k) s = .next t ∧ RespondsOk t ∧
          OnlyStores s.ctl.dst.toNat (elemSize k * (s.getX n).toNat) s t ∧
          ∀ j : Nat, j < elemSize k * (s.getX n).toNat →
            t.halfAt (s.ctl.dst.toNat + j) = s.halfAt (s.ctl.src.toNat + j)

/-- 43_vector_ops.md rules R233, R238, R241 and 60_exceptions.md rule R313: `DIV_ZERO` (VTILE, also for `n = 0`), then
`MEM_RANGE`, then `OVERLAP` when the ranges meet and `SRC ≠ DST`. -/
def Obligations.VectorFaultOrder : Prop :=
  ∀ (s : State) (n m : XReg) (k : Elem),
    (∀ (i : Instr) (src dst : Nat),
        ((i = .vcopy n k ∨ i = .vfade n m k ∨ i = .vbrt n m k ∨ i = .vblur1 n m k) ∧
            src = elemSize k * (s.getX n).toNat ∧ dst = elemSize k * (s.getX n).toNat) ∨
          (i = .vadd n ∧ src = (s.getX n).toNat ∧ dst = (s.getX n).toNat) ∨
          (i = .vtile n m k ∧ s.getX m ≠ 0#32 ∧ src = elemSize k * min (s.getX n).toNat (s.getX m).toNat ∧
            dst = elemSize k * (s.getX n).toNat) →
        (¬ RangesExist s src dst → ∃ t, exec i s = .next t ∧ FaultOf 0x08#8 s t) ∧
          (RangesExist s src dst → ¬ RangesDisjoint s src dst → s.ctl.src ≠ s.ctl.dst →
            ∃ t, exec i s = .next t ∧ FaultOf 0x09#8 s t)) ∧
      (s.getX m = 0#32 → ∃ t, exec (.vtile n m k) s = .next t ∧ FaultOf 0x07#8 s t) ∧
      ∀ (d : CReg) (j : Nat), j < 3 * (s.getX n).toNat → s.params.memSize ≤ s.ctl.dst.toNat + j →
        ∃ t, exec (.vfill d n) s = .next t ∧ FaultOf 0x08#8 s t

/-! ### The host side -/

/-- 60_exceptions.md rules R336, R337: `check()` answers true without a change when `count ≥ target` and else counts and
answers false; `reset()` and `update()` set `count` to 0, `update()` also the target; from `count = 0` the first `target`
calls of `check()` answer false and every later one true; nothing else changes. That neither value overflows is a premise
(log 11). -/
def Obligations.FrameTimerCountsToTarget : Prop :=
  Env.launch.frame.count = 0 ∧
    (∀ (s : State) (rest : List HostMove), s.host = .frameCheck :: rest →
      (s.env.frame.target ≤ s.env.frame.count →
          step s = .next { s with host := rest, env := { s.env with answer := some true } }) ∧
        (s.env.frame.count < s.env.frame.target → s.env.frame.count + 1 < 2 ^ s.params.timerWidth →
          step s = .next { s with
            host := rest
            env := { s.env with
              frame := ⟨s.env.frame.count + 1, s.env.frame.target⟩
              answer := some false } })) ∧
    (∀ (s : State) (rest : List HostMove), s.host = .frameReset :: rest →
      step s = .next { s with host := rest, env := { s.env with frame := ⟨0, s.env.frame.target⟩ } }) ∧
    (∀ (s : State) (rest : List HostMove) (target : Nat), s.host = .frameUpdate target :: rest →
      target < 2 ^ s.params.timerWidth →
        step s = .next { s with host := rest, env := { s.env with frame := ⟨0, target⟩ } }) ∧
    ∀ (s : State) (k target : Nat) (rest : List HostMove), s.env.frame = ⟨0, target⟩ →
      target < 2 ^ s.params.timerWidth → s.host = List.replicate (k + 1) .frameCheck ++ rest →
        Sys2Proof.core.run (k + 1) s = .next { s with
          host := rest
          env := { s.env with frame := ⟨min (k + 1) target, target⟩, answer := some (decide (target ≤ k)) } }

/-- 60_exceptions.md rules R338, R340: `check()` changes nothing but its answer, which is `now − start ≥ duration` while
the clock has not wrapped since the stamp and the duration is below the bound of log 14; `reset()` and `update()` stamp;
time passes without touching anything else (log 12). Two calls with no time between them answer the same in every
state, after a wrap too. -/
def Obligations.IntervalTimerReads : Prop :=
  ∀ (s : State) (rest : List HostMove),
    (s.host = .intervalCheck :: rest → ∃ b : Bool,
        step s = .next { s with host := rest, env := { s.env with answer := some b } } ∧
          (s.env.wraps = s.env.interval.startWraps → s.env.interval.duration < s.params.durationBound →
            (b = true ↔ (s.env.interval.duration : Int) ≤ (s.env.clock.toNat : Int) - s.env.interval.start.toNat))) ∧
      (s.host = .intervalCheck :: .intervalCheck :: rest → ∃ (b : Bool) (t u : State),
        step s = .next t ∧ t.env.answer = some b ∧ step t = .next u ∧ u.env.answer = some b) ∧
      (s.host = .intervalReset :: rest → step s = .next { s with
        host := rest
        env := { s.env with interval := ⟨s.env.wraps, s.env.clock, s.env.interval.duration⟩ } }) ∧
      (∀ d : Nat, s.host = .intervalUpdate d :: rest → step s = .next { s with
        host := rest
        env := { s.env with interval := ⟨s.env.wraps, s.env.clock, d⟩ } }) ∧
      ∀ us : Nat, s.host = .elapse us :: rest → ∃ t, step s = .next t ∧
        t = { s with host := rest, env := { s.env with clock := t.env.clock, wraps := t.env.wraps } } ∧
        t.env.wraps * 2 ^ 32 + t.env.clock.toNat = s.env.wraps * 2 ^ 32 + s.env.clock.toNat + us

/-- 20_memory.md rules R66, R75: between commands the host may write every halfword and byte of buffer memory and the
unit holds its registers; and the machine stops for no command, only for a host store outside memory (log 9) and a Frame
Timer value `TIMER_WIDTH` bits do not hold (log 11). -/
def Obligations.HostStoresAndStops : Prop :=
  (∀ (s : State) (a : Nat) (v : Half) (rest : List HostMove), s.host = .storeHalf a v :: rest →
      a < s.params.memSize → Mem.wf s.mem = true →
        ∃ t, step s = .next t ∧ t.halfAt a = v ∧ OnlyStores a 1 { s with host := rest } t ∧ t.resp = s.resp) ∧
    (∀ (s : State) (a : Nat) (v : Byte) (rest : List HostMove), s.host = .storeByte a v :: rest →
      a < 2 * s.params.memSize → Mem.wf s.mem = true →
        ∃ t, step s = .next t ∧ t.byteAt a = v ∧ OnlyStores (a / 2) 1 { s with host := rest } t ∧
          (∀ b : Nat, b ≠ a → t.byteAt b = s.byteAt b) ∧ t.resp = s.resp) ∧
    (∀ (s : State) (a : Nat), s.halfAt a =
      match s.params.byteOrder with
      | .little => s.byteAt (2 * a + 1) ++ s.byteAt (2 * a)
      | .big => s.byteAt (2 * a) ++ s.byteAt (2 * a + 1)) ∧
    ∀ s : State, (∀ t, step s ≠ .next t) ↔
      ((∃ a v rest, s.host = .storeHalf a v :: rest ∧ s.params.memSize ≤ a) ∨
        (∃ a v rest, s.host = .storeByte a v :: rest ∧ 2 * s.params.memSize ≤ a) ∨
        (∃ k rest, s.host = .frameUpdate k :: rest ∧ 2 ^ s.params.timerWidth ≤ k) ∨
        ∃ rest, s.host = .frameCheck :: rest ∧ s.env.frame.count < s.env.frame.target ∧
          2 ^ s.params.timerWidth ≤ s.env.frame.count + 1)
end

