-- ==== Sys2Proof/Laws/Codec.lean ====
section
/-! SUPPORT. The fields of a packed word, a word as the packing of its fields, and the field readers on the field writers. -/

namespace Sys2Proof.Codec

@[simp] theorem opOf_packR (op : BitVec 8) (d a b c e m : BitVec 4) : opOf (packR op d a b c e m) = op := by
  apply BitVec.eq_of_getLsbD_eq; intro i hi
  interval_cases i <;> simp [opOf, packR]

@[simp] theorem fieldD_packR (op : BitVec 8) (d a b c e m : BitVec 4) : fieldD (packR op d a b c e m) = d := by
  apply BitVec.eq_of_getLsbD_eq; intro i hi
  interval_cases i <;> simp [fieldD, packR]

@[simp] theorem fieldA_packR (op : BitVec 8) (d a b c e m : BitVec 4) : fieldA (packR op d a b c e m) = a := by
  apply BitVec.eq_of_getLsbD_eq; intro i hi
  interval_cases i <;> simp [fieldA, packR]

@[simp] theorem fieldB_packR (op : BitVec 8) (d a b c e m : BitVec 4) : fieldB (packR op d a b c e m) = b := by
  apply BitVec.eq_of_getLsbD_eq; intro i hi
  interval_cases i <;> simp [fieldB, packR]

@[simp] theorem fieldC_packR (op : BitVec 8) (d a b c e m : BitVec 4) : fieldC (packR op d a b c e m) = c := by
  apply BitVec.eq_of_getLsbD_eq; intro i hi
  interval_cases i <;> simp [fieldC, packR]

@[simp] theorem fieldE_packR (op : BitVec 8) (d a b c e m : BitVec 4) : fieldE (packR op d a b c e m) = e := by
  apply BitVec.eq_of_getLsbD_eq; intro i hi
  interval_cases i <;> simp [fieldE, packR]

@[simp] theorem fieldM_packR (op : BitVec 8) (d a b c e m : BitVec 4) : fieldM (packR op d a b c e m) = m := by
  apply BitVec.eq_of_getLsbD_eq; intro i hi
  interval_cases i <;> simp [fieldM, packR]

@[simp] theorem opOf_packI (op : BitVec 8) (d sel : BitVec 4) (imm : Half) : opOf (packI op d sel imm) = op := by
  apply BitVec.eq_of_getLsbD_eq; intro i hi
  interval_cases i <;> simp [opOf, packI]

@[simp] theorem fieldD_packI (op : BitVec 8) (d sel : BitVec 4) (imm : Half) : fieldD (packI op d sel imm) = d := by
  apply BitVec.eq_of_getLsbD_eq; intro i hi
  interval_cases i <;> simp [fieldD, packI]

@[simp] theorem fieldA_packI (op : BitVec 8) (d sel : BitVec 4) (imm : Half) : fieldA (packI op d sel imm) = sel := by
  apply BitVec.eq_of_getLsbD_eq; intro i hi
  interval_cases i <;> simp [fieldA, packI]

@[simp] theorem immOf_packI (op : BitVec 8) (d sel : BitVec 4) (imm : Half) : immOf (packI op d sel imm) = imm := by
  apply BitVec.eq_of_getLsbD_eq; intro i hi
  interval_cases i <;> simp [immOf, packI]

/-- A word is the packing of its fields of format R. -/
theorem packR_fields (w : Word) :
    packR (opOf w) (fieldD w) (fieldA w) (fieldB w) (fieldC w) (fieldE w) (fieldM w) = w := by
  apply BitVec.eq_of_getLsbD_eq; intro i hi
  interval_cases i <;>
    simp [packR, opOf, fieldD, fieldA, fieldB, fieldC, fieldE, fieldM]

/-- A word is the packing of its fields of format I. -/
theorem packI_fields (w : Word) : packI (opOf w) (fieldD w) (fieldA w) (immOf w) = w := by
  apply BitVec.eq_of_getLsbD_eq; intro i hi
  interval_cases i <;> simp [packI, opOf, fieldD, fieldA, immOf]

/-- Masking a packed word masks its fields. -/
theorem packR_and (op op' : BitVec 8) (d a b c e m d' a' b' c' e' m' : BitVec 4) :
    packR op d a b c e m &&& packR op' d' a' b' c' e' m' =
      packR (op &&& op') (d &&& d') (a &&& a') (b &&& b') (c &&& c') (e &&& e') (m &&& m') := by
  apply BitVec.eq_of_getLsbD_eq; intro i hi
  interval_cases i <;> simp [packR]

theorem packI_and (op op' : BitVec 8) (d sel d' sel' : BitVec 4) (imm imm' : Half) :
    packI op d sel imm &&& packI op' d' sel' imm' = packI (op &&& op') (d &&& d') (sel &&& sel') (imm &&& imm') := by
  apply BitVec.eq_of_getLsbD_eq; intro i hi
  interval_cases i <;> simp [packI]

/-- The low 24 bits of a format N word with every field zero. -/
@[simp] theorem low24_packR (op : BitVec 8) :
    (packR op 0#4 0#4 0#4 0#4 0#4 0#4).extractLsb' 0 24 = 0#24 := by
  apply BitVec.eq_of_getLsbD_eq; intro i hi
  interval_cases i <;> simp [packR]

/-- A word whose low 24 bits are zero is the format N word of its opcode. -/
theorem packR_of_low24 {w : Word} (h : w.extractLsb' 0 24 = 0#24) :
    packR (opOf w) 0#4 0#4 0#4 0#4 0#4 0#4 = w := by
  apply BitVec.eq_of_getLsbD_eq; intro i hi
  have hb : ∀ j, j < 24 → w.getLsbD j = false := by
    intro j hj
    have := congrArg (fun v => v.getLsbD j) h
    simpa [hj] using this
  by_cases h24 : i < 24
  · rw [hb i h24]; interval_cases i <;> simp [packR]
  · interval_cases i <;> simp_all [packR, opOf]

@[simp] theorem reg_ofReg (r : Fin 8) : reg (ofReg r) = .ok r := by revert r; decide
@[simp] theorem chan_ofChan (ch : Chan) : chan (ofChan ch) = .ok ch := by cases ch <;> decide
@[simp] theorem bsel_ofBase (b : Base) : bsel (ofBase b) = .ok b := by cases b <;> decide
@[simp] theorem elem_ofElem (k : Elem) : elem (ofElem k) = .ok k := by cases k <;> decide
@[simp] theorem unused_zero : unused 0#4 = .ok () := by decide

/-- A register field reads as `r` exactly when it is `r`'s number. -/
theorem reg_eq_ok {f : BitVec 4} {r : Fin 8} : reg f = .ok r ↔ f = ofReg r := by revert f r; decide
theorem unused_eq_ok {f : BitVec 4} {u : Unit} : unused f = .ok u ↔ f = 0#4 := by cases u; revert f; decide
theorem chan_eq_ok {f : BitVec 4} {ch : Chan} : chan f = .ok ch ↔ f = ofChan ch := by cases ch <;> revert f <;> decide
theorem bsel_eq_ok {f : BitVec 4} {b : Base} : bsel f = .ok b ↔ f = ofBase b := by cases b <;> revert f <;> decide
theorem elem_eq_ok {f : BitVec 4} {k : Elem} : elem f = .ok k ↔ f = ofElem k := by cases k <;> revert f <;> decide

/-- The top bit of a register field is 0 (R94). -/
@[simp] theorem ofReg_top (r : Fin 8) : ofReg r &&& 8#4 = 0#4 := by revert r; decide
@[simp] theorem ofChan_top (ch : Chan) : ofChan ch &&& 12#4 = 0#4 := by cases ch <;> decide
@[simp] theorem ofBase_top (b : Base) : ofBase b &&& 14#4 = 0#4 := by cases b <;> decide
@[simp] theorem ofElem_top (k : Elem) : ofElem k &&& 14#4 = 0#4 := by cases k <;> decide

end Sys2Proof.Codec
end

