-- ==== Sys2Proof/Laws/Memory.lean ====
section
/-! SUPPORT. The laws of buffer memory: a read after a write gives the value written, a write leaves every other byte
alone, and every operation keeps the canonical form and the bound of the address space. -/

namespace Sys2Proof.Machine.Mem

/-- A list whose entries all lie at or above `lo` reads as unlisted below it. -/
theorem byteAt_below {m : List Host.Cell} {lo a : Nat} (h : wfFrom lo m = true) (ha : a < lo) :
    byteAt m a = Config.unlistedByte := by
  induction m generalizing lo with
  | nil => rfl
  | cons cell m ih =>
    obtain ⟨b, w⟩ := cell
    simp only [wfFrom, Bool.and_eq_true, decide_eq_true_eq] at h
    have hb : b ≠ a := by omega
    simp only [byteAt, hb, if_false]
    exact ih h.2 (by omega)

/-- Writing one byte leaves every other byte alone. -/
theorem byteAt_setByte_ne (m : List Host.Cell) {a b : Nat} (v : Byte) (h : b ≠ a) :
    byteAt (setByte m a v) b = byteAt m b := by
  have h' : a ≠ b := Ne.symm h
  induction m with
  | nil => by_cases hv : v = Config.unlistedByte <;> simp [setByte, byteAt, hv, h']
  | cons cell m ih =>
    obtain ⟨k, w⟩ := cell
    simp only [setByte]
    split
    · split <;> simp [byteAt, h']
    · split
      · rename_i hak
        subst hak
        split <;> simp [byteAt, h']
      · simp only [byteAt]
        split
        · rfl
        · exact ih

/-- Reading back the byte just written. -/
theorem byteAt_setByte_self {m : List Host.Cell} {lo : Nat} (h : wfFrom lo m = true) (a : Nat) (v : Byte) :
    byteAt (setByte m a v) a = v := by
  induction m generalizing lo with
  | nil => by_cases hv : v = Config.unlistedByte <;> simp [setByte, byteAt, hv]
  | cons cell m ih =>
    obtain ⟨k, w⟩ := cell
    have h0 := h
    simp only [wfFrom, Bool.and_eq_true, decide_eq_true_eq] at h
    simp only [setByte]
    split
    · rename_i hak
      split
      · rename_i hv
        have hk : k ≠ a := by omega
        simp only [byteAt, hk, if_false, hv]
        exact byteAt_below h.2 (by omega)
      · simp [byteAt]
    · split
      · rename_i hak
        split
        · rename_i hv
          rw [hv]
          exact byteAt_below h.2 (by omega)
        · simp [byteAt]
      · rename_i h1 h2
        have hk : k ≠ a := fun e => h2 e.symm
        simp only [byteAt, hk, if_false]
        exact ih h.2

/-- The canonical form from a lower address on. -/
theorem wfFrom_mono {m : List Host.Cell} {lo hi : Nat} (h : wfFrom hi m = true) (hl : lo ≤ hi) : wfFrom lo m = true := by
  cases m with
  | nil => rfl
  | cons cell m =>
    obtain ⟨k, w⟩ := cell
    simp only [wfFrom, Bool.and_eq_true, decide_eq_true_eq] at h ⊢
    exact ⟨⟨by omega, h.1.2⟩, h.2⟩

/-- Writing one byte at or above `lo` keeps the canonical form from `lo` on. -/
theorem wfFrom_setByte {m : List Host.Cell} {lo : Nat} (h : wfFrom lo m = true) {a : Nat} (ha : lo ≤ a) (v : Byte) :
    wfFrom lo (setByte m a v) = true := by
  induction m generalizing lo with
  | nil => by_cases hv : v = Config.unlistedByte <;> simp [setByte, wfFrom, hv, ha]
  | cons cell m ih =>
    obtain ⟨k, w⟩ := cell
    have h0 := h
    simp only [wfFrom, Bool.and_eq_true, decide_eq_true_eq] at h
    simp only [setByte]
    split
    · rename_i hak
      split
      · exact h0
      · rename_i hv
        simp only [wfFrom, Bool.and_eq_true, decide_eq_true_eq]
        exact ⟨⟨ha, hv⟩, ⟨⟨by omega, h.1.2⟩, h.2⟩⟩
    · split
      · rename_i hak
        split
        · exact wfFrom_mono h.2 (by omega)
        · rename_i hv
          subst hak
          simp only [wfFrom, Bool.and_eq_true, decide_eq_true_eq]
          exact ⟨⟨ha, hv⟩, h.2⟩
      · simp only [wfFrom, Bool.and_eq_true, decide_eq_true_eq]
        exact ⟨h.1, ih h.2 (by omega)⟩

/-- `setByte` keeps the canonical form. -/
theorem wf_setByte {m : List Host.Cell} (h : wf m = true) (a : Nat) (v : Byte) : wf (setByte m a v) = true :=
  wfFrom_setByte h (Nat.zero_le a) v

/-- `setByte` inside the address space lists nothing outside it. -/
theorem inside_setByte {n : Nat} {m : List Host.Cell} (h : inside n m = true) {a : Nat} (ha : a < 2 * n) (v : Byte) :
    inside n (setByte m a v) = true := by
  induction m with
  | nil => by_cases hv : v = Config.unlistedByte <;> simp [setByte, inside, hv, ha]
  | cons cell m ih =>
    obtain ⟨k, w⟩ := cell
    simp only [inside, List.all_cons, Bool.and_eq_true, decide_eq_true_eq] at h
    have ih' := ih (by simpa [inside] using h.2)
    have hm : ∀ x ∈ m, x.1 < 2 * n := by simpa using h.2
    simp only [setByte]
    split
    · split
      · simpa [inside] using ⟨h.1, fun a b hab => hm (a, b) hab⟩
      · simpa [inside] using ⟨ha, h.1, fun a b hab => hm (a, b) hab⟩
    · split
      · split
        · simpa [inside] using fun a b hab => hm (a, b) hab
        · simpa [inside] using ⟨ha, fun a b hab => hm (a, b) hab⟩
      · simp only [inside, List.all_cons, Bool.and_eq_true, decide_eq_true_eq] at ih' ⊢
        exact ⟨h.1, ih'⟩

/-- The two bytes of a halfword are bytes `2a` and `2a + 1` (R66). -/
theorem lowByte_bounds (o : Config.ByteOrder) (a : Nat) : 2 * a ≤ lowByte o a ∧ lowByte o a ≤ 2 * a + 1 := by
  cases o <;> simp [lowByte]

theorem highByte_bounds (o : Config.ByteOrder) (a : Nat) : 2 * a ≤ highByte o a ∧ highByte o a ≤ 2 * a + 1 := by
  cases o <;> simp [highByte]

theorem lowByte_ne_highByte (o : Config.ByteOrder) (a : Nat) : lowByte o a ≠ highByte o a := by
  cases o <;> simp [lowByte, highByte]

/-- `writeHalf` leaves every byte of every other halfword alone. -/
theorem byteAt_writeHalf_ne (o : Config.ByteOrder) (m : List Host.Cell) {a b : Nat} (v : Half)
    (h : b < 2 * a ∨ 2 * (a + 1) ≤ b) : byteAt (writeHalf o m a v) b = byteAt m b := by
  have hl := lowByte_bounds o a
  have hh := highByte_bounds o a
  rw [writeHalf, byteAt_setByte_ne _ _ (by omega), byteAt_setByte_ne _ _ (by omega)]

/-- Reading back the halfword just written. -/
theorem readHalf_writeHalf_self (o : Config.ByteOrder) {m : List Host.Cell} (h : wf m = true) (a : Nat) (v : Half) :
    readHalf o (writeHalf o m a v) a = v := by
  have hw := wf_setByte h (lowByte o a) (v.extractLsb' 0 8)
  have e1 : byteAt (writeHalf o m a v) (highByte o a) = v.extractLsb' 8 8 := byteAt_setByte_self hw _ _
  have e2 : byteAt (writeHalf o m a v) (lowByte o a) = v.extractLsb' 0 8 := by
    rw [writeHalf, byteAt_setByte_ne _ _ (lowByte_ne_highByte o a)]
    exact byteAt_setByte_self h _ _
  rw [readHalf, e1, e2]
  apply BitVec.eq_of_getLsbD_eq
  intro i hi
  rw [BitVec.getLsbD_append]
  by_cases h8 : i < 8
  · simp [h8]
  · simp [h8, show i - 8 < 8 by omega, show 8 + (i - 8) = i by omega]

/-- `writeHalf` leaves every other halfword alone. -/
theorem readHalf_writeHalf_ne (o : Config.ByteOrder) (m : List Host.Cell) {a b : Nat} (v : Half) (h : b ≠ a) :
    readHalf o (writeHalf o m a v) b = readHalf o m b := by
  have hl := lowByte_bounds o b
  have hh := highByte_bounds o b
  rw [readHalf, readHalf, byteAt_writeHalf_ne o m v (by omega), byteAt_writeHalf_ne o m v (by omega)]

theorem wf_writeHalf (o : Config.ByteOrder) {m : List Host.Cell} (h : wf m = true) (a : Nat) (v : Half) :
    wf (writeHalf o m a v) = true := wf_setByte (wf_setByte h _ _) _ _

theorem inside_writeHalf (o : Config.ByteOrder) {n : Nat} {m : List Host.Cell} (h : inside n m = true) {a : Nat}
    (ha : a < n) (v : Half) : inside n (writeHalf o m a v) = true := by
  have hl := lowByte_bounds o a
  have hh := highByte_bounds o a
  exact inside_setByte (inside_setByte h (by omega) _) (by omega) _

/-- `writeHalves` keeps the canonical form. -/
theorem wf_writeHalves (o : Config.ByteOrder) {m : List Host.Cell} (h : wf m = true) (a : Nat) (vs : List Half) :
    wf (writeHalves o m a vs) = true := by
  induction vs generalizing m a with
  | nil => exact h
  | cons v vs ih => exact ih (wf_writeHalf o h a v) (a + 1)

/-- `writeHalves` inside the address space lists nothing outside it. -/
theorem inside_writeHalves (o : Config.ByteOrder) {n : Nat} {m : List Host.Cell} (h : inside n m = true) {a : Nat}
    {vs : List Half} (ha : a + vs.length ≤ n) : inside n (writeHalves o m a vs) = true := by
  induction vs generalizing m a with
  | nil => exact h
  | cons v vs ih =>
    simp only [List.length_cons] at ha
    exact ih (inside_writeHalf o h (by omega) v) (by omega)

/-- `writeHalves` leaves every byte outside its halfwords alone. -/
theorem byteAt_writeHalves_ne (o : Config.ByteOrder) (m : List Host.Cell) {a b : Nat} (vs : List Half)
    (h : b < 2 * a ∨ 2 * (a + vs.length) ≤ b) : byteAt (writeHalves o m a vs) b = byteAt m b := by
  induction vs generalizing m a with
  | nil => rfl
  | cons v vs ih =>
    simp only [List.length_cons] at h
    rw [writeHalves, ih _ (by omega), byteAt_writeHalf_ne o m v (by omega)]

/-- `writeHalves` leaves every halfword outside its own alone. -/
theorem readHalf_writeHalves_ne (o : Config.ByteOrder) (m : List Host.Cell) {a b : Nat} (vs : List Half)
    (h : b < a ∨ a + vs.length ≤ b) : readHalf o (writeHalves o m a vs) b = readHalf o m b := by
  have hl := lowByte_bounds o b
  have hh := highByte_bounds o b
  rw [readHalf, readHalf, byteAt_writeHalves_ne o m vs (by omega), byteAt_writeHalves_ne o m vs (by omega)]

/-- Reading back one of the halfwords just written. -/
theorem readHalf_writeHalves_self (o : Config.ByteOrder) {m : List Host.Cell} (h : wf m = true) (a : Nat)
    {vs : List Half} {j : Nat} (hj : j < vs.length) : readHalf o (writeHalves o m a vs) (a + j) = vs[j] := by
  induction vs generalizing m a j with
  | nil => simp at hj
  | cons v vs ih =>
    cases j with
    | zero =>
      rw [writeHalves, readHalf_writeHalves_ne o _ vs (by omega)]
      exact readHalf_writeHalf_self o h a v
    | succ j =>
      have := ih (wf_writeHalf o h a v) (a + 1) (j := j) (by simpa using hj)
      rw [show a + (j + 1) = a + 1 + j by omega]
      simpa [writeHalves] using this

/-- The memory of the reset state is in canonical form. -/
theorem wf_reset : wf State.reset.mem = true := rfl

end Sys2Proof.Machine.Mem
end

