-- ==== Sys2Proof/Laws/State.lean ====
section
/-! SUPPORT. The small lemmas of the state: one per field per update, so that no later proof unfolds a record update, and
reading a register back. -/

namespace Sys2Proof.Machine

variable (s : State)

@[simp] theorem State.setX_x (i : XReg) (v : Word) : (s.setX i v).x = s.x.set i v := rfl
@[simp] theorem State.setX_c (i : XReg) (v : Word) : (s.setX i v).c = s.c := rfl
@[simp] theorem State.setX_ctl (i : XReg) (v : Word) : (s.setX i v).ctl = s.ctl := rfl
@[simp] theorem State.setX_flt (i : XReg) (v : Word) : (s.setX i v).flt = s.flt := rfl
@[simp] theorem State.setX_fcause (i : XReg) (v : Word) : (s.setX i v).fcause = s.fcause := rfl
@[simp] theorem State.setX_mem (i : XReg) (v : Word) : (s.setX i v).mem = s.mem := rfl
@[simp] theorem State.setX_params (i : XReg) (v : Word) : (s.setX i v).params = s.params := rfl
@[simp] theorem State.setX_resp (i : XReg) (v : Word) : (s.setX i v).resp = s.resp := rfl
@[simp] theorem State.setX_env (i : XReg) (v : Word) : (s.setX i v).env = s.env := rfl
@[simp] theorem State.setX_host (i : XReg) (v : Word) : (s.setX i v).host = s.host := rfl

@[simp] theorem State.setC_x (i : CReg) (v : Color) : (s.setC i v).x = s.x := rfl
@[simp] theorem State.setC_c (i : CReg) (v : Color) : (s.setC i v).c = s.c.set i v := rfl
@[simp] theorem State.setC_ctl (i : CReg) (v : Color) : (s.setC i v).ctl = s.ctl := rfl
@[simp] theorem State.setC_flt (i : CReg) (v : Color) : (s.setC i v).flt = s.flt := rfl
@[simp] theorem State.setC_fcause (i : CReg) (v : Color) : (s.setC i v).fcause = s.fcause := rfl
@[simp] theorem State.setC_mem (i : CReg) (v : Color) : (s.setC i v).mem = s.mem := rfl
@[simp] theorem State.setC_params (i : CReg) (v : Color) : (s.setC i v).params = s.params := rfl
@[simp] theorem State.setC_resp (i : CReg) (v : Color) : (s.setC i v).resp = s.resp := rfl
@[simp] theorem State.setC_env (i : CReg) (v : Color) : (s.setC i v).env = s.env := rfl
@[simp] theorem State.setC_host (i : CReg) (v : Color) : (s.setC i v).host = s.host := rfl

@[simp] theorem State.storeHalves_x (a : Nat) (vs : List Half) : (s.storeHalves a vs).x = s.x := rfl
@[simp] theorem State.storeHalves_c (a : Nat) (vs : List Half) : (s.storeHalves a vs).c = s.c := rfl
@[simp] theorem State.storeHalves_ctl (a : Nat) (vs : List Half) : (s.storeHalves a vs).ctl = s.ctl := rfl
@[simp] theorem State.storeHalves_flt (a : Nat) (vs : List Half) : (s.storeHalves a vs).flt = s.flt := rfl
@[simp] theorem State.storeHalves_fcause (a : Nat) (vs : List Half) : (s.storeHalves a vs).fcause = s.fcause := rfl
@[simp] theorem State.storeHalves_mem (a : Nat) (vs : List Half) : (s.storeHalves a vs).mem = Mem.writeHalves s.params.byteOrder s.mem a vs := rfl
@[simp] theorem State.storeHalves_params (a : Nat) (vs : List Half) : (s.storeHalves a vs).params = s.params := rfl
@[simp] theorem State.storeHalves_resp (a : Nat) (vs : List Half) : (s.storeHalves a vs).resp = s.resp := rfl
@[simp] theorem State.storeHalves_env (a : Nat) (vs : List Half) : (s.storeHalves a vs).env = s.env := rfl
@[simp] theorem State.storeHalves_host (a : Nat) (vs : List Half) : (s.storeHalves a vs).host = s.host := rfl

@[simp] theorem State.respond_x (st : Status) (data : Word) : (s.respond st data).x = s.x := rfl
@[simp] theorem State.respond_c (st : Status) (data : Word) : (s.respond st data).c = s.c := rfl
@[simp] theorem State.respond_ctl (st : Status) (data : Word) : (s.respond st data).ctl = s.ctl := rfl
@[simp] theorem State.respond_flt (st : Status) (data : Word) : (s.respond st data).flt = s.flt := rfl
@[simp] theorem State.respond_fcause (st : Status) (data : Word) : (s.respond st data).fcause = s.fcause := rfl
@[simp] theorem State.respond_mem (st : Status) (data : Word) : (s.respond st data).mem = s.mem := rfl
@[simp] theorem State.respond_params (st : Status) (data : Word) : (s.respond st data).params = s.params := rfl
@[simp] theorem State.respond_resp (st : Status) (data : Word) : (s.respond st data).resp = some ⟨st, data⟩ := rfl
@[simp] theorem State.respond_env (st : Status) (data : Word) : (s.respond st data).env = s.env := rfl
@[simp] theorem State.respond_host (st : Status) (data : Word) : (s.respond st data).host = s.host := rfl

@[simp] theorem State.done_x : s.done.x = s.x := rfl
@[simp] theorem State.done_c : s.done.c = s.c := rfl
@[simp] theorem State.done_ctl : s.done.ctl = s.ctl := rfl
@[simp] theorem State.done_flt : s.done.flt = s.flt := rfl
@[simp] theorem State.done_fcause : s.done.fcause = s.fcause := rfl
@[simp] theorem State.done_mem : s.done.mem = s.mem := rfl
@[simp] theorem State.done_params : s.done.params = s.params := rfl
@[simp] theorem State.done_resp : s.done.resp = some ⟨.ok, 0#32⟩ := rfl
@[simp] theorem State.done_env : s.done.env = s.env := rfl
@[simp] theorem State.done_host : s.done.host = s.host := rfl

@[simp] theorem State.raise_x (c : Cause) : (s.raise c).x = s.x := rfl
@[simp] theorem State.raise_c (c : Cause) : (s.raise c).c = s.c := rfl
@[simp] theorem State.raise_ctl (c : Cause) : (s.raise c).ctl = s.ctl := rfl
@[simp] theorem State.raise_flt (c : Cause) : (s.raise c).flt = true := rfl
@[simp] theorem State.raise_fcause (c : Cause) : (s.raise c).fcause = causeCode c := rfl
@[simp] theorem State.raise_mem (c : Cause) : (s.raise c).mem = s.mem := rfl
@[simp] theorem State.raise_params (c : Cause) : (s.raise c).params = s.params := rfl
@[simp] theorem State.raise_resp (c : Cause) : (s.raise c).resp = some ⟨.fault, (causeCode c).zeroExtend 32⟩ := rfl
@[simp] theorem State.raise_env (c : Cause) : (s.raise c).env = s.env := rfl
@[simp] theorem State.raise_host (c : Cause) : (s.raise c).host = s.host := rfl

@[simp] theorem State.discard_x : s.discard.x = s.x := rfl
@[simp] theorem State.discard_c : s.discard.c = s.c := rfl
@[simp] theorem State.discard_ctl : s.discard.ctl = s.ctl := rfl
@[simp] theorem State.discard_flt : s.discard.flt = s.flt := rfl
@[simp] theorem State.discard_fcause : s.discard.fcause = s.fcause := rfl
@[simp] theorem State.discard_mem : s.discard.mem = s.mem := rfl
@[simp] theorem State.discard_params : s.discard.params = s.params := rfl
@[simp] theorem State.discard_resp : s.discard.resp = some ⟨.discarded, s.fcause.zeroExtend 32⟩ := rfl
@[simp] theorem State.discard_env : s.discard.env = s.env := rfl
@[simp] theorem State.discard_host : s.discard.host = s.host := rfl

@[simp] theorem State.resetUnit_x : s.resetUnit.x = Vector.replicate 8 0#32 := rfl
@[simp] theorem State.resetUnit_c : s.resetUnit.c = Vector.replicate 8 ⟨0#16, 0#16, 0#16⟩ := rfl
@[simp] theorem State.resetUnit_ctl : s.resetUnit.ctl = Ctl.reset := rfl
@[simp] theorem State.resetUnit_flt : s.resetUnit.flt = false := rfl
@[simp] theorem State.resetUnit_fcause : s.resetUnit.fcause = 0x00#8 := rfl
@[simp] theorem State.resetUnit_mem : s.resetUnit.mem = s.mem := rfl
@[simp] theorem State.resetUnit_params : s.resetUnit.params = s.params := rfl
@[simp] theorem State.resetUnit_resp : s.resetUnit.resp = s.resp := rfl
@[simp] theorem State.resetUnit_env : s.resetUnit.env = s.env := rfl
@[simp] theorem State.resetUnit_host : s.resetUnit.host = s.host := rfl

@[simp] theorem State.presenting_x (w : Word) : (s.presenting w).x = s.x := rfl
@[simp] theorem State.presenting_c (w : Word) : (s.presenting w).c = s.c := rfl
@[simp] theorem State.presenting_ctl (w : Word) : (s.presenting w).ctl = s.ctl := rfl
@[simp] theorem State.presenting_flt (w : Word) : (s.presenting w).flt = s.flt := rfl
@[simp] theorem State.presenting_fcause (w : Word) : (s.presenting w).fcause = s.fcause := rfl
@[simp] theorem State.presenting_mem (w : Word) : (s.presenting w).mem = s.mem := rfl
@[simp] theorem State.presenting_params (w : Word) : (s.presenting w).params = s.params := rfl
@[simp] theorem State.presenting_resp (w : Word) : (s.presenting w).resp = s.resp := rfl
@[simp] theorem State.presenting_env (w : Word) : (s.presenting w).env = s.env := rfl
@[simp] theorem State.presenting_host (w : Word) : (s.presenting w).host = .present w :: s.host := rfl

@[simp] theorem State.getX_setX_self (d : XReg) (v : Word) : (s.setX d v).getX d = v := by
  simp [State.getX, State.setX]

@[simp] theorem State.getX_setX_ne (d : XReg) (v : Word) {j : XReg} (h : j ≠ d) : (s.setX d v).getX j = s.getX j := by
  have : (d : Nat) ≠ j := fun e => h (Fin.ext e.symm)
  simp [State.getX, State.setX, this]

@[simp] theorem State.getC_setC_self (d : CReg) (v : Color) : (s.setC d v).getC d = v := by
  simp [State.getC, State.setC]

@[simp] theorem State.getC_setC_ne (d : CReg) (v : Color) {j : CReg} (h : j ≠ d) : (s.setC d v).getC j = s.getC j := by
  have : (d : Nat) ≠ j := fun e => h (Fin.ext e.symm)
  simp [State.getC, State.setC, this]

theorem State.getX_congr {s t : State} (h : t.x = s.x) (i : XReg) : t.getX i = s.getX i := by
  simp [State.getX, h]

theorem State.getC_congr {s t : State} (h : t.c = s.c) (i : CReg) : t.getC i = s.getC i := by
  simp [State.getC, h]

theorem State.byteAt_congr {s t : State} (h : t.mem = s.mem) (a : Nat) : t.byteAt a = s.byteAt a := by
  simp [State.byteAt, h]

theorem State.halfAt_congr {s t : State} (h : t.mem = s.mem) (hp : t.params = s.params) (a : Nat) :
    t.halfAt a = s.halfAt a := by
  simp [State.halfAt, h, hp]

@[simp] theorem State.getX_done (i : XReg) : s.done.getX i = s.getX i := rfl
@[simp] theorem State.getC_done (i : CReg) : s.done.getC i = s.getC i := rfl
@[simp] theorem State.getX_respond (st : Status) (data : Word) (i : XReg) : (s.respond st data).getX i = s.getX i := rfl
@[simp] theorem State.getC_respond (st : Status) (data : Word) (i : CReg) : (s.respond st data).getC i = s.getC i := rfl
@[simp] theorem State.getX_setC (d : CReg) (v : Color) (i : XReg) : (s.setC d v).getX i = s.getX i := rfl
@[simp] theorem State.getC_setX (d : XReg) (v : Word) (i : CReg) : (s.setX d v).getC i = s.getC i := rfl
@[simp] theorem State.getX_storeHalves (a : Nat) (vs : List Half) (i : XReg) : (s.storeHalves a vs).getX i = s.getX i := rfl
@[simp] theorem State.getC_storeHalves (a : Nat) (vs : List Half) (i : CReg) : (s.storeHalves a vs).getC i = s.getC i := rfl
@[simp] theorem State.byteAt_done (a : Nat) : s.done.byteAt a = s.byteAt a := rfl
@[simp] theorem State.byteAt_setX (d : XReg) (v : Word) (a : Nat) : (s.setX d v).byteAt a = s.byteAt a := rfl
@[simp] theorem State.byteAt_setC (d : CReg) (v : Color) (a : Nat) : (s.setC d v).byteAt a = s.byteAt a := rfl
@[simp] theorem State.byteAt_respond (st : Status) (data : Word) (a : Nat) :
    (s.respond st data).byteAt a = s.byteAt a := rfl
@[simp] theorem State.byteAt_raise (c : Cause) (a : Nat) : (s.raise c).byteAt a = s.byteAt a := rfl
@[simp] theorem State.halfAt_done (a : Nat) : s.done.halfAt a = s.halfAt a := rfl

/-- Reading the channel just written. -/
@[simp] theorem Color.get_set_self (v : Color) (ch : Chan) (h : Half) : (v.set ch h).get ch = h := by
  cases ch <;> rfl

/-- The other channels keep their values (R280, R283). -/
@[simp] theorem Color.get_set_ne (v : Color) {ch ch' : Chan} (h : Half) (ne : ch' ≠ ch) :
    (v.set ch h).get ch' = v.get ch' := by
  cases ch <;> cases ch' <;> first | rfl | exact absurd rfl ne

/-- Reading the control register just written. -/
@[simp] theorem Ctl.get_set_self (k : Ctl) (name : CtlName) (v : Word) : (k.set name v).get name = v := by
  cases name <;> simp [Ctl.get, Ctl.set]

/-- A write of one control register leaves every other as it was (R292). -/
@[simp] theorem Ctl.get_set_ne (k : Ctl) {name name' : CtlName} (v : Word) (ne : name' ≠ name) :
    (k.set name v).get name' = k.get name' := by
  cases name with
  | kx i =>
    cases name' with
    | kx j =>
      have : (i : Nat) ≠ j := fun e => ne (congrArg CtlName.kx (Fin.ext e.symm))
      simp [Ctl.get, Ctl.set, this]
    | _ => rfl
  | ky i =>
    cases name' with
    | ky j =>
      have : (i : Nat) ≠ j := fun e => ne (congrArg CtlName.ky (Fin.ext e.symm))
      simp [Ctl.get, Ctl.set, this]
    | _ => rfl
  | _ => cases name' <;> first | rfl | exact absurd rfl ne

end Sys2Proof.Machine
end

