-- ==== Sys2Proof/Laws/Ops.lean ====
section
/-! SUPPORT. What the shared operations can do, once: the range and overlap checks say what their rules say, stores read
back, and a checked store either raises its cause or stores and responds. -/

namespace Sys2Proof.Machine

/-- R68: a range is fine when every halfword of it exists. -/
theorem State.rangeOk_iff (s : State) (a n : Nat) :
    s.rangeOk a n = true ↔ ∀ h, a ≤ h → h < a + n → h < s.params.memSize := by
  simp only [State.rangeOk, Bool.or_eq_true, decide_eq_true_eq]
  constructor
  · rintro h k hk1 hk2
    omega
  · intro h
    by_cases hn : n = 0
    · exact .inl hn
    · have := h (a + n - 1) (by omega) (by omega)
      exact .inr (by omega)

/-- R76: two ranges overlap when they have a common halfword. -/
theorem overlaps_iff (a m b n : Nat) :
    overlaps a m b n = true ↔ ∃ h, (a ≤ h ∧ h < a + m) ∧ (b ≤ h ∧ h < b + n) := by
  simp only [overlaps, Bool.and_eq_true, decide_eq_true_eq]
  constructor
  · rintro ⟨⟨⟨h1, h2⟩, h3⟩, h4⟩
    exact ⟨max a b, by omega, by omega⟩
  · rintro ⟨h, h1, h2⟩
    omega

/-- The vector commands' checks pass exactly when both ranges exist and they are disjoint or `SRC = DST` (R233). -/
theorem State.vectorCheck_eq_none (s : State) (m n : Nat) :
    s.vectorCheck m n = none ↔
      s.rangeOk s.srcAddr m = true ∧ s.rangeOk s.dstAddr n = true ∧
        (overlaps s.srcAddr m s.dstAddr n = false ∨ s.ctl.src = s.ctl.dst) := by
  unfold State.vectorCheck
  cases h1 : s.rangeOk s.srcAddr m <;> cases h2 : s.rangeOk s.dstAddr n <;>
    cases h3 : overlaps s.srcAddr m s.dstAddr n <;> simp

/-- The vector commands' checks raise `MEM_RANGE` or `OVERLAP` only. -/
theorem State.vectorCheck_cases (s : State) (m n : Nat) :
    s.vectorCheck m n = none ∨ s.vectorCheck m n = some .memRange ∨ s.vectorCheck m n = some .overlap := by
  unfold State.vectorCheck
  split
  · exact .inr (.inl rfl)
  · split
    · exact .inr (.inr rfl)
    · exact .inl rfl

/-- The convolution's checks pass exactly when both ranges exist and they are disjoint (R205, R209). -/
theorem State.strictCheck_eq_none (s : State) (n : Nat) :
    s.strictCheck n = none ↔
      s.rangeOk s.srcAddr n = true ∧ s.rangeOk s.dstAddr n = true ∧ overlaps s.srcAddr n s.dstAddr n = false := by
  unfold State.strictCheck
  cases h1 : s.rangeOk s.srcAddr n <;> cases h2 : s.rangeOk s.dstAddr n <;>
    cases h3 : overlaps s.srcAddr n s.dstAddr n <;> simp

/-- The convolution's checks raise `MEM_RANGE` or `OVERLAP` only. -/
theorem State.strictCheck_cases (s : State) (n : Nat) :
    s.strictCheck n = none ∨ s.strictCheck n = some .memRange ∨ s.strictCheck n = some .overlap := by
  unfold State.strictCheck
  split
  · exact .inr (.inl rfl)
  · split
    · exact .inr (.inr rfl)
    · exact .inl rfl

/-- A checked store with a cause raises it. -/
@[simp] theorem State.storeUnless_some (s : State) (c : Cause) (vs : List Half) :
    s.storeUnless (some c) vs = s.raise c := rfl

/-- A checked store without a cause stores at `CR.DST` and responds (OK, 0). -/
@[simp] theorem State.storeUnless_none (s : State) (vs : List Half) :
    s.storeUnless none vs = (s.storeHalves s.dstAddr vs).done := rfl

/-- Reading back a stored halfword. -/
theorem State.halfAt_storeHalves_self (s : State) (h : Mem.wf s.mem = true) (a : Nat) {vs : List Half} {j : Nat}
    (hj : j < vs.length) : (s.storeHalves a vs).halfAt (a + j) = vs[j] :=
  Mem.readHalf_writeHalves_self s.params.byteOrder h a hj

/-- Halfwords outside the stored ones read as before. -/
theorem State.halfAt_storeHalves_ne (s : State) {a b : Nat} {vs : List Half} (h : b < a ∨ a + vs.length ≤ b) :
    (s.storeHalves a vs).halfAt b = s.halfAt b :=
  Mem.readHalf_writeHalves_ne s.params.byteOrder s.mem vs h

/-- Bytes outside the stored halfwords read as before. -/
theorem State.byteAt_storeHalves_ne (s : State) {a b : Nat} {vs : List Half}
    (h : b < 2 * a ∨ 2 * (a + vs.length) ≤ b) : (s.storeHalves a vs).byteAt b = s.byteAt b :=
  Mem.byteAt_writeHalves_ne s.params.byteOrder s.mem vs h

/-- A store keeps the canonical form. -/
theorem State.wf_storeHalves (s : State) (h : Mem.wf s.mem = true) (a : Nat) (vs : List Half) :
    Mem.wf (s.storeHalves a vs).mem = true := Mem.wf_writeHalves s.params.byteOrder h a vs

/-- A store whose range exists lists nothing outside the address space. -/
theorem State.inside_storeHalves (s : State) (h : Mem.inside s.params.memSize s.mem = true) {a : Nat} {vs : List Half}
    (hr : s.rangeOk a vs.length = true) : Mem.inside s.params.memSize (s.storeHalves a vs).mem = true := by
  simp only [State.rangeOk, Bool.or_eq_true, decide_eq_true_eq] at hr
  rcases hr with h0 | hr
  · have : vs = [] := List.length_eq_zero_iff.mp h0
    subst this
    exact h
  · exact Mem.inside_writeHalves s.params.byteOrder h hr

/-- An assigned number names a tap below `K_MAX`, or one of the seven named registers (R28). -/
theorem tapIndex_eq_some {p : Config.Params} {first cr : Nat} {i : Fin 15} (h : tapIndex p first cr = some i) :
    cr = first + i.val ∧ i.val < p.kMax.val := by
  unfold tapIndex at h
  split at h
  · rename_i hc
    simp only [Option.some.injEq] at h
    subst h
    constructor <;> simp only <;> omega
  · exact absurd h (by simp)

/-- Every fault code is one of 0x01 … 0x09 (R311). -/
theorem causeCode_bounds (c : Cause) : 1 ≤ (causeCode c).toNat ∧ (causeCode c).toNat ≤ 9 := by
  cases c <;> decide

/-- Different causes have different codes (R311). -/
theorem causeCode_injective {c c' : Cause} (h : causeCode c = causeCode c') : c = c' := by
  revert h
  cases c <;> cases c' <;> decide

end Sys2Proof.Machine
end

