-- ==== Sys2Proof/Laws/Exec.lean ====
section
/-! SUPPORT. What one command can do to the state, once for all 33: every command answers a next state of one of six
shapes. Invariants and whole-machine rules follow from this instead of from unfolding every meaning. -/

namespace Sys2Proof.Machine

/-- The six shapes of the state after a command: it responds only, it raised a cause, it wrote an X register, a C
register or a control register, it stored halfwords that exist, or it was URST. -/
inductive Effect (s : State) : State → Prop
  | responded (data : Word) : Effect s (s.respond .ok data)
  | raised (c : Cause) : Effect s (s.raise c)
  | wroteX (d : XReg) (v : Word) : Effect s (s.setX d v).done
  | wroteC (d : CReg) (v : Color) : Effect s (s.setC d v).done
  | wroteCtl (name : CtlName) (v : Word) (hn : ∃ cr, ctlName s.params cr = some name)
      (hl : ctlLegal s.params name v = true) : Effect s (State.done { s with ctl := s.ctl.set name v })
  | stored (a : Nat) (vs : List Half) (h : s.rangeOk a vs.length = true) : Effect s (s.storeHalves a vs).done
  | wasReset : Effect s s.resetUnit.done

/-- A checked vector store has an effect. -/
theorem storeUnless_effect (s : State) (m n : Nat) (vs : List Half) (hn : vs.length = n) :
    Effect s (s.storeUnless (s.vectorCheck m n) vs) := by
  rcases s.vectorCheck_cases m n with h | h | h <;> rw [h]
  · rw [State.vectorCheck_eq_none] at h
    exact .stored _ _ (by rw [hn]; exact h.2.1)
  · exact .raised _
  · exact .raised _

theorem collect_length {rs : List (Except Cause Half)} {vs : List Half} (h : collect rs = .ok vs) :
    vs.length = rs.length := by
  induction rs generalizing vs with
  | nil => simp_all [collect]
  | cons r rs ih =>
    cases r with
    | error c => simp [collect] at h
    | ok v =>
      simp only [collect] at h
      cases hc : collect rs with
      | error c => simp [hc] at h
      | ok ws =>
        simp only [hc, Except.ok.injEq] at h
        subst h
        simp [ih hc]

/-- What the pipeline can do (R205): nothing for an empty buffer, a cause, or the destination overwritten with as many
halfwords as the buffer has. -/
theorem convolve_cases (u : ConvSetup) (s : State) :
    (u.sizeX * u.sizeY = 0 ∧ convolve u s = s.done) ∨
      (∃ c, (c = .edgeRange ∨ c = .memRange ∨ c = .overlap ∨
          collect (imageHalves u.sizeY (convImage s.params u (s.srcImage u.sizeY)) (3 * (u.sizeX * u.sizeY))) = .error c) ∧
        convolve u s = s.raise c) ∨
      ∃ vs, vs.length = 3 * (u.sizeX * u.sizeY) ∧ s.strictCheck (3 * (u.sizeX * u.sizeY)) = none ∧
        collect (imageHalves u.sizeY (convImage s.params u (s.srcImage u.sizeY)) (3 * (u.sizeX * u.sizeY))) = .ok vs ∧
        convolve u s = (s.storeHalves s.dstAddr vs).done := by
  simp only [convolve]
  split
  · rename_i h0
    exact .inl ⟨h0, rfl⟩
  · split
    · exact .inr (.inl ⟨_, .inl rfl, rfl⟩)
    · rcases s.strictCheck_cases (3 * (u.sizeX * u.sizeY)) with h | h | h
      · rw [h]
        cases hc : collect (imageHalves u.sizeY (convImage s.params u (s.srcImage u.sizeY)) (3 * (u.sizeX * u.sizeY))) with
        | error c => exact .inr (.inl ⟨c, .inr (.inr (.inr rfl)), rfl⟩)
        | ok vs => exact .inr (.inr ⟨vs, by simpa [imageHalves] using collect_length hc, rfl, rfl, rfl⟩)
      · rw [h]
        exact .inr (.inl ⟨_, .inr (.inl rfl), rfl⟩)
      · rw [h]
        exact .inr (.inl ⟨_, .inr (.inr (.inl rfl)), rfl⟩)

theorem convolve_effect (u : ConvSetup) (s : State) : Effect s (convolve u s) := by
  rcases convolve_cases u s with ⟨-, h⟩ | ⟨c, -, h⟩ | ⟨vs, hl, hc, -, h⟩ <;> rw [h]
  · exact .responded 0#32
  · exact .raised c
  · rw [State.strictCheck_eq_none] at hc
    exact .stored _ _ (by rw [hl]; exact hc.2.1)

/-- Every command answers a next state of one of the six shapes. -/
theorem exec_effect (i : Instr) (s : State) : ∃ t, exec i s = .next t ∧ Effect s t := by
  cases i with
  | nop => exact ⟨_, rfl, .responded 0#32⟩
  | urst => exact ⟨_, rfl, .wasReset⟩
  | xrd a => exact ⟨_, rfl, .responded _⟩
  | xli d imm => exact ⟨_, rfl, .wroteX d _⟩
  | xlh d imm => exact ⟨_, rfl, .wroteX d _⟩
  | xmov d a => exact ⟨_, rfl, .wroteX d _⟩
  | cli d ch imm => exact ⟨_, rfl, .wroteC d _⟩
  | cmov d a => exact ⟨_, rfl, .wroteC d _⟩
  | cget d a ch => exact ⟨_, rfl, .wroteX d _⟩
  | cset d a ch => exact ⟨_, rfl, .wroteC d _⟩
  | crw d cr =>
    simp only [exec, execCrw]
    cases hn : ctlName s.params cr with
    | none => exact ⟨_, rfl, .raised _⟩
    | some name =>
      simp only
      split
      · rename_i hl
        exact ⟨_, rfl, .wroteCtl name _ ⟨cr, hn⟩ hl⟩
      · exact ⟨_, rfl, .raised _⟩
  | crr d cr =>
    simp only [exec, execCrr]
    cases hn : ctlName s.params cr with
    | none => exact ⟨_, rfl, .raised _⟩
    | some name => exact ⟨_, rfl, .wroteX d _⟩
  | cadd d a b => exact ⟨_, rfl, .wroteC d _⟩
  | csub d a b => exact ⟨_, rfl, .wroteC d _⟩
  | cmul d a b => exact ⟨_, rfl, .wroteC d _⟩
  | cscale d a f => exact ⟨_, rfl, .wroteC d _⟩
  | clerp d a b t => exact ⟨_, rfl, .wroteC d _⟩
  | ceq d a b => exact ⟨_, rfl, .wroteX d _⟩
  | index d n col ring =>
    simp only [exec, execIndex]
    split
    · exact ⟨_, rfl, .wroteX d _⟩
    · exact ⟨_, rfl, .raised _⟩
  | edge d ox oy fx fy ch =>
    simp only [exec, execEdge]
    split
    · exact ⟨_, rfl, .raised _⟩
    · exact ⟨_, rfl, .wroteX d _⟩
    · split
      · exact ⟨_, rfl, .wroteX d _⟩
      · exact ⟨_, rfl, .raised _⟩
  | pld d a base =>
    simp only [exec, execPld]
    split
    · exact ⟨_, rfl, .wroteC d _⟩
    · exact ⟨_, rfl, .raised _⟩
  | pst d a base =>
    simp only [exec, execPst]
    split
    · rename_i h
      exact ⟨_, rfl, .stored _ _ h⟩
    · exact ⟨_, rfl, .raised _⟩
  | hld d a base =>
    simp only [exec, execHld]
    split
    · exact ⟨_, rfl, .wroteX d _⟩
    · exact ⟨_, rfl, .raised _⟩
  | hst d a base =>
    simp only [exec, execHst]
    split
    · rename_i h
      exact ⟨_, rfl, .stored _ _ h⟩
    · exact ⟨_, rfl, .raised _⟩
  | conv => exact ⟨_, rfl, convolve_effect _ _⟩
  | blur => exact ⟨_, rfl, convolve_effect _ _⟩
  | vcopy n k => exact ⟨_, rfl, storeUnless_effect _ _ _ _ (by simp)⟩
  | vtile n m k =>
    simp only [exec, execVtile]
    split
    · exact ⟨_, rfl, .raised _⟩
    · exact ⟨_, rfl, storeUnless_effect _ _ _ _ (by simp)⟩
  | vfill d n =>
    refine ⟨_, rfl, ?_⟩
    split
    · rename_i h
      exact .stored _ _ (by simpa [Color.halves, Nat.mul_comm] using h)
    · exact .raised _
  | vadd n => exact ⟨_, rfl, storeUnless_effect _ _ _ _ (by simp)⟩
  | vfade n amt k => exact ⟨_, rfl, storeUnless_effect _ _ _ _ (by simp)⟩
  | vbrt n amt k => exact ⟨_, rfl, storeUnless_effect _ _ _ _ (by simp)⟩
  | vblur1 n amt k => exact ⟨_, rfl, storeUnless_effect _ _ _ _ (by simp)⟩

/-- What presenting a word can do (R101): the discard of R317, `ILLEGAL_CMD`, or the meaning of the command decoded. -/
theorem present_cases (w : Word) (s : State) :
    (s.flt = true ∧ w ≠ urstWord ∧ present w s = .next s.discard) ∨
      ((s.flt = false ∨ w = urstWord) ∧
        ((∃ e, decode w = .error e ∧ present w s = .next (s.raise .illegalCmd)) ∨
          ∃ i, decode w = .ok i ∧ present w s = exec i s)) := by
  unfold present
  split
  · rename_i h
    exact .inl ⟨h.1, h.2, rfl⟩
  · rename_i h
    refine .inr ⟨?_, ?_⟩
    · by_cases hf : s.flt = true
      · exact .inr (by_contra fun hw => h ⟨hf, hw⟩)
      · exact .inl (by simpa using hf)
    · cases hd : decode w with
      | error e => exact .inl ⟨e, rfl, rfl⟩
      | ok i => exact .inr ⟨i, rfl, rfl⟩

/-- A step with nothing scheduled leaves the state as it is. -/
theorem step_idle {s : State} (h : s.host = []) : step s = .next s := by
  simp [step, hostStep, h]

/-- A step makes the host's next move on the state without it. -/
theorem step_move {s : State} {m : HostMove} {rest : List HostMove} (h : s.host = m :: rest) :
    step s = runMove m { s with host := rest } := by
  simp [step, hostStep, h]

end Sys2Proof.Machine
end

