-- ==== Sys2Proof/Laws/PerInstr.lean ====
section
/-! SUPPORT. One lemma per command: the word the encoder writes is legal by spec/opcode_table.json (30_encoding.md rules
R99-R101), read off the table's masks and not off the decoder. -/

namespace Sys2Proof.Laws.EncodingLegal

open Sys2Proof Codec WellFormed

/-- The encoder's word of the command is legal by the opcode table. -/
def Statement (i : Instr) : Prop := legal (encode i) = true

/-- A word is legal when it fits a row of the table and the row's channel field is not 3. -/
theorem legal_of_row {w : Word} (r : Row) (hr : r ∈ table) (hf : w &&& r.mask = r.pattern)
    (hc : r.chanOk w = true) : legal w = true := by
  simp only [legal, List.any_eq_true]
  exact ⟨r, hr, by simp [Row.fits, hf, hc]⟩

/-- A format R word fits a row whose mask and pattern are packed from fields that agree field by field. -/
theorem packR_fits {op op' : BitVec 8} {d a b c e m d' a' b' c' e' m' : BitVec 4} {mask pattern : Word}
    (hm : mask = packR op' d' a' b' c' e' m')
    (hp : packR (op &&& op') (d &&& d') (a &&& a') (b &&& b') (c &&& c') (e &&& e') (m &&& m') = pattern) :
    packR op d a b c e m &&& mask = pattern := by
  rw [hm, packR_and, hp]

/-- As `packR_fits`, for format I. -/
theorem packI_fits {op op' : BitVec 8} {d sel d' sel' : BitVec 4} {imm imm' : Half} {mask pattern : Word}
    (hm : mask = packI op' d' sel' imm')
    (hp : packI (op &&& op') (d &&& d') (sel &&& sel') (imm &&& imm') = pattern) :
    packI op d sel imm &&& mask = pattern := by
  rw [hm, packI_and, hp]

/-- The channel bits of a format R word. -/
theorem chanBits_packR (op : BitVec 8) (d a b c e : BitVec 4) (ch : Chan) :
    (packR op d a b c e (ofChan ch)).extractLsb' 0 2 ≠ 3#2 := by
  have h : (packR op d a b c e (ofChan ch)).extractLsb' 0 2 = (ofChan ch).extractLsb' 0 2 := by
    apply BitVec.eq_of_getLsbD_eq; intro i hi
    interval_cases i <;> simp [packR]
  rw [h]; cases ch <;> decide

/-- The channel bits of a format I word. -/
theorem chanBits_packI (op : BitVec 8) (d : BitVec 4) (ch : Chan) (imm : Half) :
    (packI op d (ofChan ch) imm).extractLsb' 16 2 ≠ 3#2 := by
  have h : (packI op d (ofChan ch) imm).extractLsb' 16 2 = (ofChan ch).extractLsb' 0 2 := by
    apply BitVec.eq_of_getLsbD_eq; intro i hi
    interval_cases i <;> simp [packI]
  rw [h]; cases ch <;> decide

theorem nop : Statement (.nop) :=
  legal_of_row ⟨0x01000000#32, 0xFFFFFFFF#32, none⟩ (by decide)
    (packR_fits (op' := 0xFF#8) (d' := 15#4) (a' := 15#4) (b' := 15#4) (c' := 15#4) (e' := 15#4) (m' := 15#4)
      (by decide) (by simp; decide)) rfl

theorem urst : Statement (.urst) :=
  legal_of_row ⟨0x02000000#32, 0xFFFFFFFF#32, none⟩ (by decide)
    (packR_fits (op' := 0xFF#8) (d' := 15#4) (a' := 15#4) (b' := 15#4) (c' := 15#4) (e' := 15#4) (m' := 15#4)
      (by decide) (by simp; decide)) rfl

theorem xrd (a : Fin 8) : Statement (.xrd a) :=
  legal_of_row ⟨0x03000000#32, 0xFFF8FFFF#32, none⟩ (by decide)
    (packR_fits (op' := 0xFF#8) (d' := 15#4) (a' := 8#4) (b' := 15#4) (c' := 15#4) (e' := 15#4) (m' := 15#4)
      (by decide) (by simp; decide)) rfl

theorem xli (d : Fin 8) (imm : Half) : Statement (.xli d imm) :=
  legal_of_row ⟨0x10000000#32, 0xFF8F0000#32, none⟩ (by decide)
    (packI_fits (op' := 0xFF#8) (d' := 8#4) (sel' := 15#4) (imm' := 0x0000#16)
      (by decide) (by simp; decide)) rfl

theorem xlh (d : Fin 8) (imm : Half) : Statement (.xlh d imm) :=
  legal_of_row ⟨0x11000000#32, 0xFF8F0000#32, none⟩ (by decide)
    (packI_fits (op' := 0xFF#8) (d' := 8#4) (sel' := 15#4) (imm' := 0x0000#16)
      (by decide) (by simp; decide)) rfl

theorem xmov (d : Fin 8) (a : Fin 8) : Statement (.xmov d a) :=
  legal_of_row ⟨0x12000000#32, 0xFF88FFFF#32, none⟩ (by decide)
    (packR_fits (op' := 0xFF#8) (d' := 8#4) (a' := 8#4) (b' := 15#4) (c' := 15#4) (e' := 15#4) (m' := 15#4)
      (by decide) (by simp; decide)) rfl

theorem cli (d : Fin 8) (ch : Chan) (imm : Half) : Statement (.cli d ch imm) :=
  legal_of_row ⟨0x13000000#32, 0xFF8C0000#32, some 16⟩ (by decide)
    (packI_fits (op' := 0xFF#8) (d' := 8#4) (sel' := 12#4) (imm' := 0x0000#16)
      (by decide) (by simp; decide)) (by simpa [Row.chanOk, encode] using chanBits_packI _ _ _ _)

theorem cmov (d : Fin 8) (a : Fin 8) : Statement (.cmov d a) :=
  legal_of_row ⟨0x14000000#32, 0xFF88FFFF#32, none⟩ (by decide)
    (packR_fits (op' := 0xFF#8) (d' := 8#4) (a' := 8#4) (b' := 15#4) (c' := 15#4) (e' := 15#4) (m' := 15#4)
      (by decide) (by simp; decide)) rfl

theorem cget (d : Fin 8) (a : Fin 8) (ch : Chan) : Statement (.cget d a ch) :=
  legal_of_row ⟨0x15000000#32, 0xFF88FFFC#32, some 0⟩ (by decide)
    (packR_fits (op' := 0xFF#8) (d' := 8#4) (a' := 8#4) (b' := 15#4) (c' := 15#4) (e' := 15#4) (m' := 12#4)
      (by decide) (by simp; decide)) (by simpa [Row.chanOk, encode] using chanBits_packR _ _ _ _ _ _ _)

theorem cset (d : Fin 8) (a : Fin 8) (ch : Chan) : Statement (.cset d a ch) :=
  legal_of_row ⟨0x16000000#32, 0xFF88FFFC#32, some 0⟩ (by decide)
    (packR_fits (op' := 0xFF#8) (d' := 8#4) (a' := 8#4) (b' := 15#4) (c' := 15#4) (e' := 15#4) (m' := 12#4)
      (by decide) (by simp; decide)) (by simpa [Row.chanOk, encode] using chanBits_packR _ _ _ _ _ _ _)

theorem crw (d : Fin 8) (cr : Half) : Statement (.crw d cr) :=
  legal_of_row ⟨0x17000000#32, 0xFF8F0000#32, none⟩ (by decide)
    (packI_fits (op' := 0xFF#8) (d' := 8#4) (sel' := 15#4) (imm' := 0x0000#16)
      (by decide) (by simp; decide)) rfl

theorem crr (d : Fin 8) (cr : Half) : Statement (.crr d cr) :=
  legal_of_row ⟨0x18000000#32, 0xFF8F0000#32, none⟩ (by decide)
    (packI_fits (op' := 0xFF#8) (d' := 8#4) (sel' := 15#4) (imm' := 0x0000#16)
      (by decide) (by simp; decide)) rfl

theorem cadd (d : Fin 8) (a : Fin 8) (b : Fin 8) : Statement (.cadd d a b) :=
  legal_of_row ⟨0x20000000#32, 0xFF888FFF#32, none⟩ (by decide)
    (packR_fits (op' := 0xFF#8) (d' := 8#4) (a' := 8#4) (b' := 8#4) (c' := 15#4) (e' := 15#4) (m' := 15#4)
      (by decide) (by simp; decide)) rfl

theorem csub (d : Fin 8) (a : Fin 8) (b : Fin 8) : Statement (.csub d a b) :=
  legal_of_row ⟨0x21000000#32, 0xFF888FFF#32, none⟩ (by decide)
    (packR_fits (op' := 0xFF#8) (d' := 8#4) (a' := 8#4) (b' := 8#4) (c' := 15#4) (e' := 15#4) (m' := 15#4)
      (by decide) (by simp; decide)) rfl

theorem cmul (d : Fin 8) (a : Fin 8) (b : Fin 8) : Statement (.cmul d a b) :=
  legal_of_row ⟨0x22000000#32, 0xFF888FFF#32, none⟩ (by decide)
    (packR_fits (op' := 0xFF#8) (d' := 8#4) (a' := 8#4) (b' := 8#4) (c' := 15#4) (e' := 15#4) (m' := 15#4)
      (by decide) (by simp; decide)) rfl

theorem cscale (d : Fin 8) (a : Fin 8) (f : Fin 8) : Statement (.cscale d a f) :=
  legal_of_row ⟨0x23000000#32, 0xFF888FFF#32, none⟩ (by decide)
    (packR_fits (op' := 0xFF#8) (d' := 8#4) (a' := 8#4) (b' := 8#4) (c' := 15#4) (e' := 15#4) (m' := 15#4)
      (by decide) (by simp; decide)) rfl

theorem clerp (d : Fin 8) (a : Fin 8) (b : Fin 8) (t : Fin 8) : Statement (.clerp d a b t) :=
  legal_of_row ⟨0x24000000#32, 0xFF8888FF#32, none⟩ (by decide)
    (packR_fits (op' := 0xFF#8) (d' := 8#4) (a' := 8#4) (b' := 8#4) (c' := 8#4) (e' := 15#4) (m' := 15#4)
      (by decide) (by simp; decide)) rfl

theorem ceq (d : Fin 8) (a : Fin 8) (b : Fin 8) : Statement (.ceq d a b) :=
  legal_of_row ⟨0x25000000#32, 0xFF888FFF#32, none⟩ (by decide)
    (packR_fits (op' := 0xFF#8) (d' := 8#4) (a' := 8#4) (b' := 8#4) (c' := 15#4) (e' := 15#4) (m' := 15#4)
      (by decide) (by simp; decide)) rfl

theorem index (d : Fin 8) (n : Fin 8) (col : Fin 8) (ring : Fin 8) : Statement (.index d n col ring) :=
  legal_of_row ⟨0x30000000#32, 0xFF8888FF#32, none⟩ (by decide)
    (packR_fits (op' := 0xFF#8) (d' := 8#4) (a' := 8#4) (b' := 8#4) (c' := 8#4) (e' := 15#4) (m' := 15#4)
      (by decide) (by simp; decide)) rfl

theorem edge (d : Fin 8) (ox : Fin 8) (oy : Fin 8) (fx : Fin 8) (fy : Fin 8) (ch : Chan) : Statement (.edge d ox oy fx fy ch) :=
  legal_of_row ⟨0x31000000#32, 0xFF88888C#32, some 0⟩ (by decide)
    (packR_fits (op' := 0xFF#8) (d' := 8#4) (a' := 8#4) (b' := 8#4) (c' := 8#4) (e' := 8#4) (m' := 12#4)
      (by decide) (by simp; decide)) (by simpa [Row.chanOk, encode] using chanBits_packR _ _ _ _ _ _ _)

theorem pld (d : Fin 8) (a : Fin 8) (base : Base) : Statement (.pld d a base) :=
  legal_of_row ⟨0x38000000#32, 0xFF88FFFE#32, none⟩ (by decide)
    (packR_fits (op' := 0xFF#8) (d' := 8#4) (a' := 8#4) (b' := 15#4) (c' := 15#4) (e' := 15#4) (m' := 14#4)
      (by decide) (by simp; decide)) rfl

theorem pst (d : Fin 8) (a : Fin 8) (base : Base) : Statement (.pst d a base) :=
  legal_of_row ⟨0x39000000#32, 0xFF88FFFE#32, none⟩ (by decide)
    (packR_fits (op' := 0xFF#8) (d' := 8#4) (a' := 8#4) (b' := 15#4) (c' := 15#4) (e' := 15#4) (m' := 14#4)
      (by decide) (by simp; decide)) rfl

theorem hld (d : Fin 8) (a : Fin 8) (base : Base) : Statement (.hld d a base) :=
  legal_of_row ⟨0x3A000000#32, 0xFF88FFFE#32, none⟩ (by decide)
    (packR_fits (op' := 0xFF#8) (d' := 8#4) (a' := 8#4) (b' := 15#4) (c' := 15#4) (e' := 15#4) (m' := 14#4)
      (by decide) (by simp; decide)) rfl

theorem hst (d : Fin 8) (a : Fin 8) (base : Base) : Statement (.hst d a base) :=
  legal_of_row ⟨0x3B000000#32, 0xFF88FFFE#32, none⟩ (by decide)
    (packR_fits (op' := 0xFF#8) (d' := 8#4) (a' := 8#4) (b' := 15#4) (c' := 15#4) (e' := 15#4) (m' := 14#4)
      (by decide) (by simp; decide)) rfl

theorem conv : Statement (.conv) :=
  legal_of_row ⟨0x40000000#32, 0xFFFFFFFF#32, none⟩ (by decide)
    (packR_fits (op' := 0xFF#8) (d' := 15#4) (a' := 15#4) (b' := 15#4) (c' := 15#4) (e' := 15#4) (m' := 15#4)
      (by decide) (by simp; decide)) rfl

theorem blur : Statement (.blur) :=
  legal_of_row ⟨0x41000000#32, 0xFFFFFFFF#32, none⟩ (by decide)
    (packR_fits (op' := 0xFF#8) (d' := 15#4) (a' := 15#4) (b' := 15#4) (c' := 15#4) (e' := 15#4) (m' := 15#4)
      (by decide) (by simp; decide)) rfl

theorem vcopy (n : Fin 8) (k : Elem) : Statement (.vcopy n k) :=
  legal_of_row ⟨0x50000000#32, 0xFFF8FFFE#32, none⟩ (by decide)
    (packR_fits (op' := 0xFF#8) (d' := 15#4) (a' := 8#4) (b' := 15#4) (c' := 15#4) (e' := 15#4) (m' := 14#4)
      (by decide) (by simp; decide)) rfl

theorem vtile (n : Fin 8) (m : Fin 8) (k : Elem) : Statement (.vtile n m k) :=
  legal_of_row ⟨0x51000000#32, 0xFFF88FFE#32, none⟩ (by decide)
    (packR_fits (op' := 0xFF#8) (d' := 15#4) (a' := 8#4) (b' := 8#4) (c' := 15#4) (e' := 15#4) (m' := 14#4)
      (by decide) (by simp; decide)) rfl

theorem vfill (d : Fin 8) (n : Fin 8) : Statement (.vfill d n) :=
  legal_of_row ⟨0x52000000#32, 0xFF88FFFF#32, none⟩ (by decide)
    (packR_fits (op' := 0xFF#8) (d' := 8#4) (a' := 8#4) (b' := 15#4) (c' := 15#4) (e' := 15#4) (m' := 15#4)
      (by decide) (by simp; decide)) rfl

theorem vadd (n : Fin 8) : Statement (.vadd n) :=
  legal_of_row ⟨0x53000000#32, 0xFFF8FFFF#32, none⟩ (by decide)
    (packR_fits (op' := 0xFF#8) (d' := 15#4) (a' := 8#4) (b' := 15#4) (c' := 15#4) (e' := 15#4) (m' := 15#4)
      (by decide) (by simp; decide)) rfl

theorem vfade (n : Fin 8) (amt : Fin 8) (k : Elem) : Statement (.vfade n amt k) :=
  legal_of_row ⟨0x54000000#32, 0xFFF88FFE#32, none⟩ (by decide)
    (packR_fits (op' := 0xFF#8) (d' := 15#4) (a' := 8#4) (b' := 8#4) (c' := 15#4) (e' := 15#4) (m' := 14#4)
      (by decide) (by simp; decide)) rfl

theorem vbrt (n : Fin 8) (amt : Fin 8) (k : Elem) : Statement (.vbrt n amt k) :=
  legal_of_row ⟨0x55000000#32, 0xFFF88FFE#32, none⟩ (by decide)
    (packR_fits (op' := 0xFF#8) (d' := 15#4) (a' := 8#4) (b' := 8#4) (c' := 15#4) (e' := 15#4) (m' := 14#4)
      (by decide) (by simp; decide)) rfl

theorem vblur1 (n : Fin 8) (amt : Fin 8) (k : Elem) : Statement (.vblur1 n amt k) :=
  legal_of_row ⟨0x56000000#32, 0xFFF88FFE#32, none⟩ (by decide)
    (packR_fits (op' := 0xFF#8) (d' := 15#4) (a' := 8#4) (b' := 8#4) (c' := 15#4) (e' := 15#4) (m' := 14#4)
      (by decide) (by simp; decide)) rfl

end Sys2Proof.Laws.EncodingLegal
end

