-- ==== Sys2Proof/Tests/Slice0.lean ====
section
/-! SUPPORT. The model's own tests. Expected values are the spec's: words written out from 30_encoding.md rules R91-R93
and R99, the examples of the command rules and the vectors V<n> of 95_test_vectors.md. Then a witness for the hypotheses
of every obligation that has some. -/

namespace Sys2Proof.Tests

open Sys2Proof.Machine Sys2Proof.Safety

/-! ### Well-formed words: each check refuses a word that breaks it (V1, V4, V7, V9, V10, V18) -/

theorem test_illegal_opcode : WellFormed.opAssigned 0x19000000#32 = false ∧ WellFormed.legal 0x19000000#32 = false := by decide

theorem test_illegal_fixed_bit :
    WellFormed.fixedBitsOk 0x20012300#32 = false ∧ WellFormed.legal 0x20012300#32 = false := by decide

theorem test_illegal_register :
    WellFormed.fixedBitsOk 0x20812000#32 = false ∧ WellFormed.legal 0x20812000#32 = false := by decide

theorem test_illegal_channel : WellFormed.fixedBitsOk 0x15630003#32 = true ∧ WellFormed.legal 0x15630003#32 = false := by decide

theorem test_illegal_zero_and_ones :
    WellFormed.legal 0x00000000#32 = false ∧ WellFormed.legal 0xFFFFFFFF#32 = false := by decide

theorem test_table_rows_disjoint :
    WellFormed.table.Pairwise fun r q => (r.pattern ^^^ q.pattern) &&& (r.mask &&& q.mask) ≠ 0#32 := by decide

theorem test_table_patterns_masked : ∀ r ∈ WellFormed.table, r.pattern &&& r.mask = r.pattern := by decide

theorem test_reject_by_name :
    decode 0x19000000#32 = .error .unknownOp ∧ decode 0x20812000#32 = .error .registerAbove7 ∧
      decode 0x20012300#32 = .error .unusedNotZero ∧ decode 0x15630003#32 = .error .channelThree := by decide

theorem test_reject_unused_bits :
    decode 0x01000001#32 = .error .unusedNotZero ∧ decode 0x15630004#32 = .error .unusedNotZero ∧
      decode 0x10010000#32 = .error .unusedNotZero ∧ decode 0x38010002#32 = .error .unusedNotZero := by decide

/-! ### Decoding: one word per constructor, its bytes written out from the fields of R99 -/

theorem test_decode_nop : decode 0x01000000#32 = .ok (.nop) ∧ encode (.nop) = 0x01000000#32 := by decide

theorem test_decode_urst : decode 0x02000000#32 = .ok (.urst) ∧ encode (.urst) = 0x02000000#32 := by decide

theorem test_decode_xrd : decode 0x03020000#32 = .ok (.xrd 2) ∧ encode (.xrd 2) = 0x03020000#32 := by decide

theorem test_decode_xli : decode 0x10308000#32 = .ok (.xli 3 0x8000#16) ∧ encode (.xli 3 0x8000#16) = 0x10308000#32 := by decide

theorem test_decode_xlh : decode 0x1110ABCD#32 = .ok (.xlh 1 0xABCD#16) ∧ encode (.xlh 1 0xABCD#16) = 0x1110ABCD#32 := by decide

theorem test_decode_xmov : decode 0x12210000#32 = .ok (.xmov 2 1) ∧ encode (.xmov 2 1) = 0x12210000#32 := by decide

theorem test_decode_cli : decode 0x13120005#32 = .ok (.cli 1 .blue 5#16) ∧ encode (.cli 1 .blue 5#16) = 0x13120005#32 := by decide

theorem test_decode_cmov : decode 0x14500000#32 = .ok (.cmov 5 0) ∧ encode (.cmov 5 0) = 0x14500000#32 := by decide

theorem test_decode_cget : decode 0x15630002#32 = .ok (.cget 6 3 .blue) ∧ encode (.cget 6 3 .blue) = 0x15630002#32 := by decide

theorem test_decode_cset : decode 0x16520002#32 = .ok (.cset 5 2 .blue) ∧ encode (.cset 5 2 .blue) = 0x16520002#32 := by decide

theorem test_decode_crw : decode 0x17100012#32 = .ok (.crw 1 0x0012#16) ∧ encode (.crw 1 0x0012#16) = 0x17100012#32 := by decide

theorem test_decode_crr : decode 0x18100006#32 = .ok (.crr 1 6#16) ∧ encode (.crr 1 6#16) = 0x18100006#32 := by decide

theorem test_decode_cadd : decode 0x20712000#32 = .ok (.cadd 7 1 2) ∧ encode (.cadd 7 1 2) = 0x20712000#32 := by decide

theorem test_decode_csub : decode 0x21501000#32 = .ok (.csub 5 0 1) ∧ encode (.csub 5 0 1) = 0x21501000#32 := by decide

theorem test_decode_cmul : decode 0x22411000#32 = .ok (.cmul 4 1 1) ∧ encode (.cmul 4 1 1) = 0x22411000#32 := by decide

theorem test_decode_cscale : decode 0x23323000#32 = .ok (.cscale 3 2 3) ∧ encode (.cscale 3 2 3) = 0x23323000#32 := by decide

theorem test_decode_clerp : decode 0x24301200#32 = .ok (.clerp 3 0 1 2) ∧ encode (.clerp 3 0 1 2) = 0x24301200#32 := by decide

theorem test_decode_ceq : decode 0x25434000#32 = .ok (.ceq 4 3 4) ∧ encode (.ceq 4 3 4) = 0x25434000#32 := by decide

theorem test_decode_index : decode 0x30012300#32 = .ok (.index 0 1 2 3) ∧ encode (.index 0 1 2 3) = 0x30012300#32 := by decide

theorem test_decode_edge : decode 0x31012341#32 = .ok (.edge 0 1 2 3 4 .green) ∧ encode (.edge 0 1 2 3 4 .green) = 0x31012341#32 := by decide

theorem test_decode_pld : decode 0x38400001#32 = .ok (.pld 4 0 .dst) ∧ encode (.pld 4 0 .dst) = 0x38400001#32 := by decide

theorem test_decode_pst : decode 0x39310001#32 = .ok (.pst 3 1 .dst) ∧ encode (.pst 3 1 .dst) = 0x39310001#32 := by decide

theorem test_decode_hld : decode 0x3A010000#32 = .ok (.hld 0 1 .src) ∧ encode (.hld 0 1 .src) = 0x3A010000#32 := by decide

theorem test_decode_hst : decode 0x3B210001#32 = .ok (.hst 2 1 .dst) ∧ encode (.hst 2 1 .dst) = 0x3B210001#32 := by decide

theorem test_decode_conv : decode 0x40000000#32 = .ok (.conv) ∧ encode (.conv) = 0x40000000#32 := by decide

theorem test_decode_blur : decode 0x41000000#32 = .ok (.blur) ∧ encode (.blur) = 0x41000000#32 := by decide

theorem test_decode_vcopy : decode 0x50010001#32 = .ok (.vcopy 1 .pix) ∧ encode (.vcopy 1 .pix) = 0x50010001#32 := by decide

theorem test_decode_vtile : decode 0x51012001#32 = .ok (.vtile 1 2 .pix) ∧ encode (.vtile 1 2 .pix) = 0x51012001#32 := by decide

theorem test_decode_vfill : decode 0x52100000#32 = .ok (.vfill 1 0) ∧ encode (.vfill 1 0) = 0x52100000#32 := by decide

theorem test_decode_vadd : decode 0x53060000#32 = .ok (.vadd 6) ∧ encode (.vadd 6) = 0x53060000#32 := by decide

theorem test_decode_vfade : decode 0x54012000#32 = .ok (.vfade 1 2 .raw) ∧ encode (.vfade 1 2 .raw) = 0x54012000#32 := by decide

theorem test_decode_vbrt : decode 0x55034001#32 = .ok (.vbrt 3 4 .pix) ∧ encode (.vbrt 3 4 .pix) = 0x55034001#32 := by decide

theorem test_decode_vblur1 : decode 0x56012001#32 = .ok (.vblur1 1 2 .pix) ∧ encode (.vblur1 1 2 .pix) = 0x56012001#32 := by decide

/-! ### One step each -/

/-- The launch state with `MEM_SIZE` 64 and these X registers, C registers and memory bytes. -/
def unit (xs : List Word) (cs : List Color) (mem : List Host.Cell) : State :=
  { State.reset with
    x := Vector.ofFn fun i => xs.getD i.val 0#32
    c := Vector.ofFn fun i => cs.getD i.val ⟨0#16, 0#16, 0#16⟩
    mem := mem
    params := { Config.launch with memSize := 64 } }

/-- The state after a step, if there is one. -/
def after : Host.Outcome State Fault Refusal → Option State
  | .next t => some t
  | .fault _ => none
  | .refused _ => none

/-- The unit presented with a word, and the state after the step. -/
def run (s : State) (w : Nat) : Option State := after (step (s.withFetchWord 32 w))

/-- A buffer of halfwords from halfword address `a` on, on empty memory. -/
def buf (a : Nat) (vs : List Half) : List Host.Cell := Mem.writeHalves .little [] a vs

/-- A unit with the bases, sizes and policy set. -/
def State.withCtl (s : State) (src dst sizeX sizeY edge : Word) : State :=
  { s with ctl := { s.ctl with src := src, dst := dst, sizeX := sizeX, sizeY := sizeY, edge := edge } }

/-- V3. -/
theorem test_nop : (run (unit [] [] []) 0x01000000).map (fun t => t.resp) = some (some ⟨.ok, 0#32⟩) := by decide

/-- P6 word 6. -/
theorem test_nop_discarded : (run ({ unit [] [] [] with flt := true, fcause := 9#8 }) 0x01000000).map (fun t => t.resp) = some (some ⟨.discarded, 9#32⟩) := by decide

/-- P6 words 8, 9: URST clears the latch and the registers and answers (OK, 0). -/
theorem test_urst :
    (run { unit [1#32] [] [] with flt := true, fcause := 9#8 } 0x02000000).map (fun t => (t.flt, t.fcause, t.getX 0, t.resp)) =
      some (false, 0x00#8, 0#32, some ⟨.ok, 0#32⟩) := by decide

/-- V6. -/
theorem test_urst_unused_bit : (run (unit [] [] []) 0x02100000).map (fun t => t.resp) = some (some ⟨.fault, 1#32⟩) := by decide

/-- V26. -/
theorem test_xrd : (run (unit [0#32, 0#32, 0xABCD1234#32] [] []) 0x03020000).map (fun t => t.resp) = some (some ⟨.ok, 0xABCD1234#32⟩) := by decide

/-- V27: sign-extended. -/
theorem test_xli : (run (unit [] [] []) 0x10308000).map (fun t => t.getX 3) = some 0xFFFF8000#32 := by decide

/-- V24: the low half is kept. -/
theorem test_xlh : (run (unit [0#32, 0x1234#32] [] []) 0x1110ABCD).map (fun t => t.getX 1) = some 0xABCD1234#32 := by decide

/-- V25. -/
theorem test_xmov : (run (unit [0#32, 0xABCD1234#32] [] []) 0x12210000).map (fun t => t.getX 2) = some 0xABCD1234#32 := by decide

/-- V29a. -/
theorem test_cli : (run (unit [] [⟨1#16, 0#16, 3#16⟩] []) 0x13010002).map (fun t => t.getC 0) = some ⟨1#16, 2#16, 3#16⟩ := by decide

/-- V29b. -/
theorem test_cmov : (run (unit [] [⟨1#16, 2#16, 3#16⟩] []) 0x14500000).map (fun t => t.getC 5) = some ⟨1#16, 2#16, 3#16⟩ := by decide

/-- The example of R282. -/
theorem test_cget : (run (unit [] [⟨0#16, 0#16, 0#16⟩, ⟨0#16, 0#16, 0#16⟩, ⟨7#16, 8#16, 65535#16⟩] []) 0x15120002).map (fun t => t.getX 1) = some 0x0000FFFF#32 := by decide

/-- V29f: bits [31:16] dropped. -/
theorem test_cset : (run (unit [0#32, 0#32, 0#32, 0x00012345#32] [⟨1#16, 2#16, 3#16⟩] []) 0x16030000).map (fun t => t.getC 0) = some ⟨9029#16, 2#16, 3#16⟩ := by decide

/-- V34, V35. -/
theorem test_crw :
    (run (unit [65535#32] [] []) 0x17000002).map (fun t => (t.ctl.sizeX, t.resp)) = some (65535#32, some ⟨.ok, 0#32⟩) ∧
      (run (unit [65536#32] [] []) 0x17000002).map (fun t => (t.ctl.sizeX, t.resp)) =
        some (0#32, some ⟨.fault, 3#32⟩) := by decide

/-- V43, V44: `K_MAX` = 7. -/
theorem test_crw_taps :
    (run (unit [5#32] [] []) 0x17000016).map (fun t => t.ctl.kx[6]) = some 5#32 ∧
      (run (unit [5#32] [] []) 0x17000017).map (fun t => t.resp) = some (some ⟨.fault, 2#32⟩) := by decide

/-- The example of R293. -/
theorem test_crr : (run (unit [] [] []) 0x18100006).map (fun t => t.getX 1) = some 1#32 := by decide

/-- V49. -/
theorem test_crr_unassigned : (run (unit [] [] []) 0x18100017).map (fun t => t.resp) = some (some ⟨.fault, 2#32⟩) := by decide

/-- V30. -/
theorem test_cadd : (run (unit [] [⟨40000#16, 43690#16, 101#16⟩, ⟨30000#16, 10#16, 5#16⟩] []) 0x20201000).map (fun t => t.getC 2) = some ⟨65535#16, 43700#16, 106#16⟩ := by decide

/-- V32. -/
theorem test_cadd_same_register : (run (unit [] [⟨0#16, 0#16, 0#16⟩,⟨0#16, 0#16, 0#16⟩,⟨0#16, 0#16, 0#16⟩,⟨5#16, 6#16, 7#16⟩] []) 0x20333000).map (fun t => t.getC 3) = some ⟨10#16, 12#16, 14#16⟩ := by decide

/-- V62. -/
theorem test_csub : (run (unit [] [⟨255#16, 256#16, 257#16⟩, ⟨257#16, 256#16, 255#16⟩] []) 0x21210000).map (fun t => t.getC 2) = some ⟨2#16, 0#16, 0#16⟩ := by decide

/-- V65. -/
theorem test_cmul : (run (unit [] [⟨255#16, 256#16, 257#16⟩, ⟨257#16, 256#16, 255#16⟩] []) 0x22201000).map (fun t => t.getC 2) = some ⟨65535#16, 65535#16, 65535#16⟩ := by decide

/-- V53. -/
theorem test_cscale : (run (unit [0#32, 0x3EAAAAAB#32] [⟨100#16, 43690#16, 65535#16⟩] []) 0x23201000).map (fun t => t.getC 2) = some ⟨33#16, 14563#16, 21845#16⟩ := by decide

/-- V56. -/
theorem test_cscale_below_one : (run (unit [0#32, 0x3F7FFFFF#32] [⟨100#16, 43690#16, 65535#16⟩] []) 0x23201000).map (fun t => t.getC 2) = some ⟨99#16, 43689#16, 65534#16⟩ := by decide

/-- V73. -/
theorem test_clerp : (run (unit [0#32, 0#32, 0x3E800000#32] [⟨1000#16, 20000#16, 65535#16⟩, ⟨3000#16, 0#16, 100#16⟩] []) 0x24301200).map (fun t => t.getC 3) = some ⟨1500#16, 15000#16, 49176#16⟩ := by decide

/-- V73 under `T_WEIGHTS_A`. -/
theorem test_clerp_other_weighting : (run ({ unit [0#32, 0#32, 0x3E800000#32] [⟨1000#16, 20000#16, 65535#16⟩, ⟨3000#16, 0#16, 100#16⟩] [] with params := { Config.launch with lerp := .tWeightsA } }) 0x24301200).map (fun t => t.getC 3) = some ⟨2500#16, 5000#16, 16458#16⟩ := by decide

/-- V68: the whole register is written. -/
theorem test_ceq : (run (unit [0xDEADBEEF#32] [⟨0#16, 0#16, 0#16⟩,⟨0#16, 0#16, 0#16⟩,⟨0#16, 0#16, 0#16⟩,⟨5#16, 6#16, 7#16⟩,⟨5#16, 6#16, 8#16⟩] []) 0x25034000).map (fun t => t.getX 0) = some 0#32 := by decide

/-- V98. -/
theorem test_index : (run (unit [0#32, 3#32, 0xFFFFFFFE#32, 2#32] [] []) 0x30012300).map (fun t => t.getX 0) = some 0xFFFFFFFC#32 := by decide

/-- V92. -/
theorem test_index_ring_range : (run (unit [0#32, 8#32, 0#32, 8#32] [] []) 0x30012300).map (fun t => t.resp) = some (some ⟨.fault, 4#32⟩) := by decide

/-- V100 under Wrap. -/
theorem test_edge_wrap : (run (State.withCtl (unit [0#32, 0xFFFFFFFF#32, 2#32, 0#32, 2#32] [] (buf 34 [1034#16])) 0#32 0#32 4#32 3#32 0#32) 0x31012341).map (fun t => t.getX 0) = some 1034#32 := by decide

/-- V106 under Wrap and Black, V108. -/
theorem test_edge_faults :
    (run (State.withCtl (unit [0#32, 0xFFFFFFFB#32, 1#32, 0#32, 1#32] [] (buf 34 [1034#16])) 0#32 0#32 4#32 3#32 0#32) 0x31012340).map (fun t => t.resp) =
        some (some ⟨.fault, 6#32⟩) ∧
      (run (State.withCtl (unit [0#32, 0xFFFFFFFB#32, 1#32, 0#32, 1#32] [] (buf 34 [1034#16])) 0#32 0#32 4#32 3#32 3#32) 0x31012340).map (fun t => t.getX 0) =
        some 65535#32 ∧
      (run (State.withCtl (unit [0#32, 0xFFFFFFFF#32, 0xFFFFFFFF#32, 0#32, 0#32] [] (buf 34 [1034#16])) 0#32 0#32 4#32 3#32 3#32) 0x31012340).map (fun t => t.resp) =
        some (some ⟨.fault, 5#32⟩) := by decide

/-- V116. -/
theorem test_pld : (run (State.withCtl (unit [0#32, 2#32] [] (buf 16 [5#16, 6#16, 7#16])) 10#32 0#32 0#32 0#32 0#32) 0x38010000).map (fun t => t.getC 0) = some ⟨5#16, 6#16, 7#16⟩ := by decide

/-- V119. -/
theorem test_pld_no_wrap : (run (State.withCtl (unit [] [] []) 0xFFFFFFFF#32 0#32 0#32 0#32 0#32) 0x38010000).map (fun t => t.resp) = some (some ⟨.fault, 8#32⟩) := by decide

/-- The example of R298, at `DST` = 50. -/
theorem test_pst :
    (run (State.withCtl (unit [0#32, 1#32] [⟨0#16, 0#16, 0#16⟩,⟨0#16, 0#16, 0#16⟩,⟨0#16, 0#16, 0#16⟩,⟨9#16, 8#16, 7#16⟩] []) 0#32 50#32 0#32 0#32 0#32) 0x39310001).map (fun t => (List.range 3).map fun j => t.halfAt (53 + j)) = some [9#16, 8#16, 7#16] := by decide

/-- V119b. -/
theorem test_hld : (run (unit [0#32, 4#32] [] (buf 4 [0xFFFF#16])) 0x3A010000).map (fun t => t.getX 0) = some 0x0000FFFF#32 := by decide

/-- V119c. -/
theorem test_hst :
    (run (State.withCtl (unit [0#32, 0#32, 0x12345678#32] [] []) 0#32 20#32 0#32 0#32 0#32) 0x3B210001).map (fun t => (List.range 1).map fun j => t.halfAt (20 + j)) = some [0x5678#16] := by decide

/-- The set-up of V131: a 1 × 1 buffer (300, 0, 65535) at 0, destination 8. -/
def dot : State := State.withCtl (unit [] [] (buf 0 [300#16, 0#16, 65535#16])) 0#32 8#32 1#32 1#32 0#32

/-- `dot` with one tap 1.0 on both axes (R217). -/
def identityDot : State :=
  { dot with ctl := { dot.ctl with kx := dot.ctl.kx.set 0 0x3F800000#32, ky := dot.ctl.ky.set 0 0x3F800000#32 } }

/-- R217, as V120 on one pixel. -/
theorem test_conv_identity :
    (run (identityDot) 0x40000000).map (fun t => (List.range 3).map fun j => t.halfAt (8 + j)) = some [300#16, 0#16, 65535#16] := by decide

/-- V124: `EDGE_RANGE` before `MEM_RANGE`. -/
theorem test_conv_radius_first : (run ({ dot with ctl := { dot.ctl with kxLen := 5#32, dst := 62#32 } }) 0x40000000).map (fun t => t.resp) = some (some ⟨.fault, 6#32⟩) := by decide

/-- V131. -/
theorem test_blur :
    (run (dot) 0x41000000).map (fun t => (List.range 3).map fun j => t.halfAt (8 + j)) = some [58286#16, 58253#16, 65535#16] := by decide

/-- R209: `SRC` = `DST`. -/
theorem test_blur_overlap : (run (State.withCtl dot 0#32 0#32 1#32 1#32 0#32) 0x41000000).map (fun t => t.resp) = some (some ⟨.fault, 9#32⟩) := by decide

/-- V141. -/
theorem test_vcopy_pix :
    (run (State.withCtl (unit [2#32] [⟨0#16, 0#16, 0#16⟩, ⟨1#16, 2#16, 3#16⟩] (buf 0 [7#16, 8#16, 9#16, 10#16, 11#16, 12#16])) 0#32 8#32 0#32 0#32 0#32) 0x50000001).map (fun t => (List.range 6).map fun j => t.halfAt (8 + j)) = some [7#16, 8#16, 9#16, 10#16, 11#16, 12#16] := by decide

/-- V142. -/
theorem test_vcopy_overlap : (run (State.withCtl (unit [3#32] [⟨0#16, 0#16, 0#16⟩, ⟨1#16, 2#16, 3#16⟩] (buf 0 [7#16, 8#16, 9#16])) 0#32 1#32 0#32 0#32 0#32) 0x50000000).map (fun t => t.resp) = some (some ⟨.fault, 9#32⟩) := by decide

/-- V150. -/
theorem test_vtile :
    (run (State.withCtl (unit [5#32, 2#32] [⟨0#16, 0#16, 0#16⟩, ⟨1#16, 2#16, 3#16⟩] (buf 0 [11#16, 22#16])) 0#32 8#32 0#32 0#32 0#32) 0x51001000).map (fun t => (List.range 5).map fun j => t.halfAt (8 + j)) = some [11#16, 22#16, 11#16, 22#16, 11#16] := by decide

/-- V151, `n = 0`. -/
theorem test_vtile_div_zero : (run (State.withCtl (unit [0#32, 0#32] [⟨0#16, 0#16, 0#16⟩, ⟨1#16, 2#16, 3#16⟩] ([])) 0#32 8#32 0#32 0#32 0#32) 0x51001000).map (fun t => t.resp) = some (some ⟨.fault, 7#32⟩) := by decide

/-- V155. -/
theorem test_vfill :
    (run (State.withCtl (unit [2#32] [⟨0#16, 0#16, 0#16⟩, ⟨1#16, 2#16, 3#16⟩] ([])) 0#32 4#32 0#32 0#32 0#32) 0x52100000).map (fun t => (List.range 6).map fun j => t.halfAt (4 + j)) = some [1#16, 2#16, 3#16, 1#16, 2#16, 3#16] := by decide

/-- V161: wraps. -/
theorem test_vadd_in_place :
    (run (State.withCtl (unit [3#32] [⟨0#16, 0#16, 0#16⟩, ⟨1#16, 2#16, 3#16⟩] (buf 0 [1#16, 40000#16, 65535#16])) 0#32 0#32 0#32 0#32 0#32) 0x53000000).map (fun t => (List.range 3).map fun j => t.halfAt (0 + j)) = some [2#16, 14464#16, 65534#16] := by decide

/-- V165. -/
theorem test_vfade :
    (run (State.withCtl (unit [3#32, 50#32] [⟨0#16, 0#16, 0#16⟩, ⟨1#16, 2#16, 3#16⟩] (buf 0 [0#16, 100#16, 65535#16])) 0#32 8#32 0#32 0#32 0#32) 0x54001000).map (fun t => (List.range 3).map fun j => t.halfAt (8 + j)) = some [0#16, 50#16, 65485#16] := by decide

/-- V171: the amount is X1[15:0]. -/
theorem test_vbrt :
    (run (State.withCtl (unit [3#32, 0x0001FFFF#32] [⟨0#16, 0#16, 0#16⟩, ⟨1#16, 2#16, 3#16⟩] (buf 0 [0#16, 100#16, 65535#16])) 0#32 8#32 0#32 0#32 0#32) 0x55001000).map (fun t => (List.range 3).map fun j => t.halfAt (8 + j)) = some [65535#16, 65535#16, 65535#16] := by decide

/-- V181. -/
theorem test_vblur1 :
    (run (State.withCtl (unit [5#32, 0x3F000000#32] [⟨0#16, 0#16, 0#16⟩, ⟨1#16, 2#16, 3#16⟩] (buf 0 [0#16, 3000#16, 0#16, 0#16, 60000#16])) 0#32 8#32 0#32 0#32 0#32) 0x56001000).map (fun t => (List.range 5).map fun j => t.halfAt (8 + j)) = some [7350#16, 2300#16, 350#16, 7000#16, 46000#16] := by decide +kernel

/-- V188. -/
theorem test_vblur1_pix :
    (run (State.withCtl (unit [2#32, 0x3F800000#32] [⟨0#16, 0#16, 0#16⟩, ⟨1#16, 2#16, 3#16⟩] (buf 0 [1000#16, 0#16, 60000#16, 2000#16, 300#16, 60000#16])) 0#32 8#32 0#32 0#32 0#32) 0x56001001).map (fun t => (List.range 6).map fun j => t.halfAt (8 + j)) = some [1565#16, 170#16, 60000#16, 1432#16, 130#16, 60000#16] := by decide +kernel

/-- V190: `target` = 3 with `count` = 3 is ready, with `count` = 2 it counts and answers false. -/
theorem test_frame_timer :
    (after (frameCheck { unit [] [] [] with env := { Env.launch with frame := ⟨3, 3⟩ } })).map (fun t => (t.env.frame, t.env.answer)) =
        some (⟨3, 3⟩, some true) ∧
      (after (frameCheck { unit [] [] [] with env := { Env.launch with frame := ⟨2, 3⟩ } })).map
          (fun t => (t.env.frame, t.env.answer)) = some (⟨3, 3⟩, some false) := by decide

/-- V191: `duration` = 1000, `start` = 5000, at 5999 and at 6000. -/
theorem test_interval_timer :
    intervalReady { unit [] [] [] with env := ⟨⟨0, 0⟩, ⟨0, 5000#32, 1000⟩, 5999#32, 0, none⟩ } = false ∧
      intervalReady { unit [] [] [] with env := ⟨⟨0, 0⟩, ⟨0, 5000#32, 1000⟩, 6000#32, 0, none⟩ } = true := by decide

/-! ### Witnesses: each hypothesis set of an obligation is met by a concrete state and operands -/

/-- A unit whose latch holds `OVERLAP`. -/
def latched : State := { unit [] [] [] with flt := true, fcause := 9#8 }

/-- A state with this one move of the host scheduled. -/
def State.withMove (s : State) (m : HostMove) : State := { s with host := [m] }

theorem witness_StepRunsTheDecodedCommand :
    (State.withMove (unit [] [] []) (.present 0x01000000#32)).host = .present 0x01000000#32 :: [] ∧
      (unit [] [] []).flt = false ∧ decode 0x01000000#32 = .ok .nop ∧
      (State.withMove latched (.present 0x02000000#32)).host = .present 0x02000000#32 :: [] ∧ latched.flt = true ∧
      decode 0x02000000#32 = .ok .urst ∧ decodeTableWord 32 0x01000000 = some .nop ∧ (unit [] [] []).host = [] := by
  decide

theorem witness_IllegalWordRaisesIllegalCmd :
    (State.withMove (unit [] [] []) (.present 0x20812000#32)).host = .present 0x20812000#32 :: [] ∧
      (unit [] [] []).flt = false ∧ IllegalWord 0x20812000#32 ∧ ¬ IllegalWord 0x20712000#32 := by
  unfold IllegalWord
  decide

theorem witness_LatchedUnitDiscards :
    (State.withMove latched (.present 0x10500007#32)).host = .present 0x10500007#32 :: [] ∧
      (State.withMove latched (.present 0x10500007#32)).flt = true ∧ (0x10500007#32 : Word) ≠ 0x02000000#32 := by decide

theorem witness_LatchHoldsUntilReset :
    latched.flt = true ∧
      (State.withMove latched (.present 0x02000000#32)).host = .present 0x02000000#32 :: [] ∧
      (State.withMove latched .resetInput).host = .resetInput :: [] ∧
      (∀ rest : List HostMove, latched.host ≠ .present 0x02000000#32 :: rest ∧ latched.host ≠ .resetInput :: rest) ∧
      (∀ rest : List HostMove,
        (State.withMove latched (.present 0x02000001#32)).host ≠ .present 0x02000000#32 :: rest ∧
          (State.withMove latched (.present 0x02000001#32)).host ≠ .resetInput :: rest) ∧
      (∃ t, step latched = .next t) ∧ ∃ t, step (State.withMove latched (.present 0x02000001#32)) = .next t :=
  ⟨rfl, rfl, rfl, fun _ => ⟨nofun, nofun⟩,
    fun _ => ⟨fun h => absurd (List.cons.inj h).1 (by decide), fun h => absurd (List.cons.inj h).1 (by decide)⟩,
    ⟨_, rfl⟩, ⟨_, rfl⟩⟩

theorem witness_ResetLeavesTheTable : (State.withMove latched .resetInput).host = .resetInput :: [] := rfl

theorem witness_StepKeepsTheInvariant :
    Inv (State.withMove latched (.elapse 4294967296)) ∧
      ∃ t, step (State.withMove latched (.elapse 4294967296)) = .next t :=
  ⟨⟨by decide, ⟨by decide, by decide, by decide, by decide, by decide, by decide, by decide⟩,
    ⟨by decide, fun _ => ⟨.overlap, rfl⟩⟩, ⟨by decide, by decide⟩, ⟨by decide, by decide, by decide⟩⟩, ⟨_, rfl⟩⟩

theorem witness_FaultsAndDiscardsChangeNothing :
    (∃ t, step (State.withMove (unit [] [] []) (.present 0#32)) = .next t ∧ t.resp = some ⟨.fault, 1#32⟩) ∧
      ∃ t, step (State.withMove latched (.present 0#32)) = .next t ∧ t.resp = some ⟨.discarded, 9#32⟩ :=
  ⟨⟨_, rfl, by decide⟩, ⟨_, rfl, by decide⟩⟩

theorem witness_CommandsRaiseOnlyTheirCauses :
    ∃ t, exec (.vtile 0 1 .raw) (unit [] [] []) = .next t ∧ t.resp = some ⟨.fault, 7#32⟩ := ⟨_, rfl, by decide⟩

theorem witness_EveryPresentedWordIsAnswered :
    (State.withMove (unit [] [] []) (.present 0x03020000#32)).host = .present 0x03020000#32 :: [] ∧
      decode 0x03020000#32 = .ok (.xrd 2) := by decide

theorem witness_ControlRegistersWrittenByCrwAndResetOnly :
    (∃ t, step (State.withMove (unit [5#32] [] []) (.present 0x17000000#32)) = .next t ∧
        t.ctl ≠ (unit [5#32] [] []).ctl) ∧
      (∃ t, step (State.withMove (State.withCtl latched 1#32 0#32 0#32 0#32 0#32) (.present 0x02000000#32)) = .next t ∧
        t.ctl ≠ (State.withCtl latched 1#32 0#32 0#32 0#32 0#32).ctl) ∧
      ∃ t, step (State.withMove (State.withCtl latched 1#32 0#32 0#32 0#32 0#32) .resetInput) = .next t ∧
        t.ctl ≠ (State.withCtl latched 1#32 0#32 0#32 0#32 0#32).ctl :=
  ⟨⟨_, rfl, by decide⟩, ⟨_, rfl, by decide⟩, ⟨_, rfl, by decide⟩⟩

theorem witness_RegisterFilesWrittenByTheirCommandsOnly :
    Instr.xli 7 1#16 ≠ .urst ∧ (∃ t, exec (.xli 7 1#16) (unit [] [] []) = .next t) ∧
      writesX (.xli 7 1#16) ≠ some 6 ∧ writesC (.xli 7 1#16) ≠ some 7 ∧ writesMemory (.xli 7 1#16) = false :=
  ⟨by decide, ⟨_, rfl⟩, by decide, by decide, by decide⟩

theorem witness_ParametersNeverChange : ∃ t, step (State.withMove latched (.elapse 1)) = .next t := ⟨_, rfl⟩

theorem witness_RoundingIsNearestEven :
    F32.value (F32.rneNat 16777217 0) = .num 16777216 ∧ F32.value 0x01000001#32 = .num 16777218 ∧
      (16777218 : Int) ≠ 16777216 ∧ |((16777217 : Nat) : Int) - 16777216 * 2 ^ 0| = |((16777217 : Nat) : Int) - 16777218 * 2 ^ 0| ∧
      (-1 : Int) < 0 := by decide

theorem witness_ScaleFollowsItsRule :
    F32.value 0x7FC00000#32 = .nan ∧ F32.value 0xFF800000#32 = .inf true ∧ F32.value 0x80000000#32 = .num 0 ∧
      F32.value 0x7F800000#32 = .inf false ∧ F32.value 0x00000001#32 = .num 1 ∧
      F32.value 0x3F800000#32 = .num (2 ^ 149) ∧ F32.value 0x40000000#32 = .num (2 ^ 150) := by decide

theorem witness_ScaleFollowsItsRule_product :
    (∃ u : Int, F32.value 0x7F7FFFFF#32 = .num u ∧ 0 < u ∧ F32.value (F32.rneNat (65535 * u.toNat) 0) = .inf false) ∧
      (∃ u p : Int, F32.value 0x3F800000#32 = .num u ∧ 0 < u ∧ F32.value (F32.rneNat (65535 * u.toNat) 0) = .num p ∧
        65535 * 2 ^ 149 ≤ p) ∧
      ∃ u p : Int, F32.value 0x3F000000#32 = .num u ∧ 0 < u ∧ F32.value (F32.rneNat (101 * u.toNat) 0) = .num p ∧
        p < 65535 * 2 ^ 149 :=
  ⟨⟨_, rfl, by decide, by decide⟩, ⟨_, _, rfl, by decide, rfl, by decide⟩, ⟨_, _, rfl, by decide, rfl, by decide⟩⟩

theorem witness_ScaleHasTheRequiredProperties :
    (∃ u : Int, F32.value 0xBF800000#32 = .num u ∧ u ≤ 0) ∧ F32.value 0xFF800000#32 = .inf true ∧
      (∃ u : Int, F32.value 0x3F800000#32 = .num u ∧ 65535 * 2 ^ 149 ≤ ((65535#16).toNat : Int) * u) ∧
      F32.value 0x7F800000#32 = .inf false ∧ ∃ u : Int, F32.value 0x3F800000#32 = .num u ∧ 0 ≤ u ∧ u ≤ 2 ^ 149 :=
  ⟨⟨_, rfl, by decide⟩, by decide, ⟨_, rfl, by decide⟩, by decide, ⟨_, rfl, by decide, by decide⟩⟩

theorem witness_ClampToUnitRange :
    NanOrAtMostZero 0x7FC00000#32 ∧ NanOrAtMostZero 0xFF800000#32 ∧ NanOrAtMostZero 0x80000000#32 ∧
      AtLeastOne 0x7F800000#32 ∧ AtLeastOne 0x3F800000#32 :=
  ⟨.inl rfl, .inr (.inl rfl), .inr (.inr ⟨_, rfl, by decide⟩), .inl rfl, .inr ⟨_, rfl, by decide⟩⟩

theorem witness_ClampToUnitRange_between : ¬ NanOrAtMostZero 0x00000001#32 ∧ ¬ AtLeastOne 0x3F7FFFFF#32 := by
  constructor
  · rintro (h | h | ⟨u, h, hu⟩)
    · exact absurd h (by decide)
    · exact absurd h (by decide)
    · rw [show F32.value 0x00000001#32 = .num 1 from rfl] at h
      injection h
      omega
  · rintro (h | ⟨u, h, hu⟩)
    · exact absurd h (by decide)
    · rw [show F32.value 0x3F7FFFFF#32 = .num (16777215 * 2 ^ 125) from rfl] at h
      injection h with h
      subst h
      exact absurd hu (by decide)

theorem witness_InterpolateCommand :
    ∃ tc u wa wb : Word, tc = F32.clampT ((unit [] [] []).getX 0) ∧ u = F32.rne (2 ^ 149 - F32.units tc) 0 ∧
      ((unit [] [] []).params.lerp = .tWeightsB → wa = u ∧ wb = tc) ∧
      ((unit [] [] []).params.lerp = .tWeightsA → wa = tc ∧ wb = u) :=
  ⟨_, _, _, _, rfl, rfl, fun _ => ⟨rfl, rfl⟩, fun h => absurd h (by decide)⟩

theorem witness_ScaleAndInterpolationEndpoints :
    (unit [0x3F800000#32] [] []).getX 0 = 0x3F800000#32 ∧ (unit [] [] []).getX 0 = 0x00000000#32 ∧
      F32.value ((unit [0xFF800000#32] [] []).getX 0) = .inf true ∧
      F32.value ((unit [0x80000001#32] [] []).getX 0) = .num (-1) ∧ (unit [] [] []).params.lerp = .tWeightsB := by decide

theorem witness_CompareCommand :
    (unit [] [⟨5#16, 6#16, 7#16⟩, ⟨5#16, 6#16, 7#16⟩, ⟨5#16, 6#16, 8#16⟩] []).getC 0 =
        (unit [] [⟨5#16, 6#16, 7#16⟩, ⟨5#16, 6#16, 7#16⟩, ⟨5#16, 6#16, 8#16⟩] []).getC 1 ∧
      (unit [] [⟨5#16, 6#16, 7#16⟩, ⟨5#16, 6#16, 7#16⟩, ⟨5#16, 6#16, 8#16⟩] []).getC 0 ≠
        (unit [] [⟨5#16, 6#16, 7#16⟩, ⟨5#16, 6#16, 7#16⟩, ⟨5#16, 6#16, 8#16⟩] []).getC 2 := by decide

theorem witness_ColourRegisterMoves : Chan.green ≠ Chan.red ∧ Chan.blue ≠ Chan.red := by decide

theorem witness_ControlRegisterNumbersAndValues :
    (6 : Fin 15).val < Config.launch.kMax.val ∧ 0x0006 < (0x0007#16 : Half).toNat ∧ (0x0007#16 : Half).toNat < 0x0010 ∧
      0x0010 + Config.launch.kMax.val ≤ (0x0017#16 : Half).toNat ∧ (0x0017#16 : Half).toNat < 0x0020 ∧
      0x0020 + Config.launch.kMax.val ≤ (0x0027#16 : Half).toNat := by decide

theorem witness_ControlRegisterAccess :
    ctlName (unit [] [] []).params 0x0017#16 = none ∧ ctlName (unit [] [] []).params 0x0002#16 = some .sizeX ∧
      ctlLegal (unit [] [] []).params .sizeX ((unit [65536#32, 65535#32] [] []).getX 0) = false ∧
      ctlLegal (unit [] [] []).params .sizeX ((unit [65536#32, 65535#32] [] []).getX 1) = true := by decide

theorem witness_ControlReadReturnsLastWrite :
    (∃ t u, ctlName (unit [7#32] [] []).params 0x0000#16 = some .src ∧
        exec (.crw 0 0x0000#16) (unit [7#32] [] []) = .next t ∧ exec (.crr 1 0x0000#16) t = .next u ∧
        ctlLegal (unit [7#32] [] []).params .src ((unit [7#32] [] []).getX 0) = true) ∧
      (∃ t u, exec .urst (unit [7#32] [] []) = .next t ∧ exec (.crr 1 0x0000#16) t = .next u) ∧
      ∃ t u, ctlName (unit [4#32] [] []).params 0x0005#16 = some .kxLen ∧
        exec (.crw 0 0x0005#16) (unit [4#32] [] []) = .next t ∧ exec (.crr 1 0x0005#16) t = .next u ∧
        ctlLegal (unit [4#32] [] []).params .kxLen ((unit [4#32] [] []).getX 0) = false :=
  ⟨⟨_, _, by decide, rfl, rfl, by decide⟩, ⟨_, _, rfl, rfl⟩, ⟨_, _, by decide, rfl, rfl, by decide⟩⟩

theorem witness_IndexCommand :
    (0 ≤ ((unit [1#32, 0#32] [] []).getX 1).toInt ∧
        ((unit [1#32, 0#32] [] []).getX 1).toInt < ((unit [1#32, 0#32] [] []).getX 0).toInt) ∧
      ¬ (0 ≤ ((unit [1#32, 1#32] [] []).getX 1).toInt ∧
        ((unit [1#32, 1#32] [] []).getX 1).toInt < ((unit [1#32, 1#32] [] []).getX 0).toInt) := by decide

theorem witness_FoldsLandInRangeExactly :
    (0 ≤ (0 : Int) ∧ (0 : Int) < 1) ∧ (-1 : Int) < 0 ∧ (1 : Int) ≤ 1 ∧ (Policy.wrap = .wrap ∨ Policy.wrap = .reflect) ∧
      ¬ (-1 ≤ (-2 : Int) ∧ (-2 : Int) < 2 * 1) ∧ ¬ (-1 ≤ (2 : Int) ∧ (2 : Int) < 2 * 1) := by decide

theorem witness_ResolveFollowsItsRule :
    (¬ (0 ≤ (4 : Int) ∧ (4 : Int) < 4) ∧ ¬ (0 ≤ (-1 : Int) ∧ (-1 : Int) < 3)) ∧
      (0 ≤ (3 : Int) ∧ (3 : Int) < 4 ↔ ¬ (0 ≤ (3 : Int) ∧ (3 : Int) < 3)) ∧
      (0 ≤ (3 : Int) ∧ (3 : Int) < 4 ∧ 0 ≤ (2 : Int) ∧ (2 : Int) < 3) ∧
      (0 ≤ wrap1 3 4 ∧ wrap1 3 4 < 4 ∧ 0 ≤ wrap1 3 3 ∧ wrap1 3 3 < 3) ∧
      ¬ (0 ≤ wrap1 3 4 ∧ wrap1 3 4 < 4 ∧ 0 ≤ wrap1 6 3 ∧ wrap1 6 3 < 3) ∧
      (0 ≤ refl1 3 4 ∧ refl1 3 4 < 4 ∧ 0 ≤ refl1 3 3 ∧ refl1 3 3 < 3) ∧
      ¬ (0 ≤ refl1 3 4 ∧ refl1 3 4 < 4 ∧ 0 ≤ refl1 6 3 ∧ refl1 6 3 < 3) := by decide

theorem witness_EdgeFetchesTheSample :
    resolve Config.launch .black (-1) (-1) 0 0 4 3 = .fault .edgeTwoAxis ∧
      resolve Config.launch .wrap (-5) 1 0 1 4 3 = .fault .edgeRange ∧
      resolve Config.launch .black (-1) 2 0 2 4 3 = .value 0xFFFF#16 ∧
      resolve Config.launch .wrap (-4) 2 0 2 4 3 = .coord 0 2 ∧ resolve Config.launch .black 3 2 0 0 4 3 = .coord 3 2 := by
  decide

theorem witness_EdgeFetchesTheSample_memory : 63 < (unit [] [] []).params.memSize ∧ (unit [] [] []).params.memSize ≤ 64 := by
  decide

theorem witness_EdgeFetchesTheSample_policy :
    (0xFFFFFFFC#32 : Word).extractLsb' 0 2 = 0#2 ∧ (1#32 : Word).extractLsb' 0 2 = 1#2 ∧
      (2#32 : Word).extractLsb' 0 2 = 2#2 ∧ (3#32 : Word).extractLsb' 0 2 = 3#2 := by decide

theorem witness_RadiusCheckIsExact : dot.ctl.sizeX ≠ 0#32 ∧ dot.ctl.sizeY ≠ 0#32 := by decide

theorem witness_PassesAreClippedSums :
    radiusTooLarge ⟨.wrap, 1, 1, [0#32, 0#32, 0#32], [0#32]⟩ = false ∧ 0 < 1 := by decide

/-- `dot` with its destination at the very end of memory. -/
def dotAtEnd : State := State.withCtl dot 0#32 61#32 1#32 1#32 0#32

theorem witness_ConvolutionResult :
    Mem.wf dotAtEnd.mem = true ∧ dotAtEnd.ctl.sizeX.toNat * dotAtEnd.ctl.sizeY.toNat = 1 ∧
      policyOf dotAtEnd.ctl.edge = .wrap ∧ dotAtEnd.ctl.kxLen.toNat / 2 ≤ dotAtEnd.ctl.sizeX.toNat ∧
      dotAtEnd.ctl.kyLen.toNat / 2 ≤ dotAtEnd.ctl.sizeY.toNat ∧ RangesExist dotAtEnd (3 * 1) (3 * 1) ∧
      RangesDisjoint dotAtEnd (3 * 1) (3 * 1) :=
  ⟨by decide, by decide, by decide, by decide, by decide, ⟨by decide, by decide⟩, by unfold RangesDisjoint; decide⟩

theorem witness_IdentityKernelCopies :
    identityDot.ctl.sizeX.toNat * identityDot.ctl.sizeY.toNat = 1 ∧ Mem.wf identityDot.mem = true ∧
      identityDot.ctl.kxLen = 1#32 ∧ identityDot.ctl.kyLen = 1#32 ∧ identityDot.ctl.kx[0] = 0x3F800000#32 ∧
      identityDot.ctl.ky[0] = 0x3F800000#32 ∧ RangesExist identityDot (3 * 1) (3 * 1) ∧
      RangesDisjoint identityDot (3 * 1) (3 * 1) ∧ identityDot.params.combine = .compose :=
  ⟨by decide, by decide, by decide, by decide, by decide, by decide, ⟨by decide, by decide⟩,
    by unfold RangesDisjoint; decide, by decide⟩

theorem witness_EmptyBufferDoesNothing :
    (State.withCtl dot 0#32 0#32 0#32 5#32 0#32).ctl.sizeX = 0#32 ∧
      (State.withCtl dot 0#32 0#32 5#32 0#32 0#32).ctl.sizeY = 0#32 := by decide

theorem witness_ConvolutionFaultOrder :
    ¬ RangesExist (State.withCtl dot 0#32 62#32 1#32 1#32 0#32) (3 * 1) (3 * 1) ∧
      RangesExist (State.withCtl dot 0#32 2#32 1#32 1#32 0#32) (3 * 1) (3 * 1) ∧
      ¬ RangesDisjoint (State.withCtl dot 0#32 2#32 1#32 1#32 0#32) (3 * 1) (3 * 1) :=
  ⟨fun h => absurd (h.2 2 (by decide)) (by decide), ⟨by decide, by decide⟩,
    fun h => h 2 (by decide) 0 (by decide) (by decide)⟩

theorem witness_ConvolutionFaultOrder_radius :
    policyOf dot.ctl.edge = .wrap ∧ ¬ dot.ctl.sizeX.toNat < dot.ctl.kxLen.toNat / 2 ∧
      ¬ dot.ctl.sizeY.toNat < dot.ctl.kyLen.toNat / 2 ∧ dot.ctl.sizeX.toNat < (5#32 : Word).toNat / 2 := by decide

theorem witness_BoxBlurResult :
    dotAtEnd.ctl.sizeX.toNat * dotAtEnd.ctl.sizeY.toNat ≠ 0 ∧ Mem.wf dotAtEnd.mem = true ∧
      RangesExist dotAtEnd (3 * 1) (3 * 1) ∧ RangesDisjoint dotAtEnd (3 * 1) (3 * 1) :=
  ⟨by decide, by decide, ⟨by decide, by decide⟩, by unfold RangesDisjoint; decide⟩

/-- `dot` with something in its destination buffer. -/
def dirtyDot : State := { dot with mem := buf 0 [300#16, 0#16, 65535#16, 0#16, 0#16, 0#16, 0#16, 0#16, 9#16] }

theorem witness_ConvolutionIgnoresOldDestination :
    dirtyDot.ctl = dot.ctl ∧ dirtyDot.params = dot.params ∧ Mem.wf dot.mem = true ∧ Mem.wf dirtyDot.mem = true ∧
      dirtyDot.mem ≠ dot.mem ∧
      (∀ j : Nat, j < 3 * (dot.ctl.sizeX.toNat * dot.ctl.sizeY.toNat) →
        dirtyDot.halfAt (dot.ctl.src.toNat + j) = dot.halfAt (dot.ctl.src.toNat + j)) ∧
      (∃ t, exec .conv dot = .next t ∧ RespondsOk t) ∧ ∃ t, exec .conv dirtyDot = .next t :=
  ⟨by decide, by decide, by decide, by decide, by decide, by decide, ⟨_, rfl, rfl⟩, ⟨_, rfl⟩⟩

/-- A 3 × 3 buffer of zeros at 0, destination 32. -/
def nine : State := State.withCtl (unit [] [] []) 0#32 32#32 3#32 3#32 0#32

theorem witness_UniformInteriorUnderBlur :
    Mem.wf nine.mem = true ∧ nine.ctl.sizeX.toNat * nine.ctl.sizeY.toNat = 9 ∧ RangesExist nine (3 * 9) (3 * 9) ∧
      RangesDisjoint nine (3 * 9) (3 * 9) ∧
      (∀ x : Nat, x < 3 → ∀ y : Nat, y < 3 → nine.halfAt (nine.ctl.src.toNat + 3 * (x * 3 + y) + 2) = 0#16) ∧
      1 + 2 ≤ nine.ctl.sizeX.toNat ∧ nine.params.combine = .compose :=
  ⟨by decide, by decide, ⟨by decide, by decide⟩,
    fun i hi j hj => by
      have h1 : nine.ctl.src.toNat = 0 := rfl
      have h2 : nine.ctl.dst.toNat = 32 := rfl
      omega,
    by decide, by decide, by decide⟩

/-- `nine` under `CONV_COMBINE = SUM`. -/
def nineSum : State := { nine with params := { nine.params with combine := .sum } }

theorem witness_UniformInteriorUnderBlur_sum :
    Mem.wf nineSum.mem = true ∧ RangesExist nineSum (3 * 9) (3 * 9) ∧ nineSum.params.combine = .sum ∧
      (∀ x : Nat, x < 3 → ∀ y : Nat, y < 3 → nineSum.halfAt (nineSum.ctl.src.toNat + 3 * (x * 3 + y) + 2) = 0#16) :=
  ⟨by decide, ⟨by decide, by decide⟩, by decide, by decide⟩

theorem witness_LoadAndStoreCommands :
    (State.withCtl (unit [] [] []) 61#32 63#32 0#32 0#32 0#32).ctl.src.toNat + 3 * ((unit [] [] []).getX 0).toNat + 2 <
        (unit [] [] []).params.memSize ∧
      (State.withCtl (unit [] [] []) 61#32 63#32 0#32 0#32 0#32).ctl.dst.toNat + ((unit [] [] []).getX 0).toNat <
        (unit [] [] []).params.memSize ∧ Mem.wf (unit [] [] []).mem = true := by decide

theorem witness_AccessOutsideMemoryFaults :
    (unit [] [] []).params.memSize ≤ (State.withCtl (unit [] [] []) 62#32 64#32 0#32 0#32 0#32).ctl.src.toNat +
        3 * ((unit [] [] []).getX 0).toNat + 2 ∧
      (unit [] [] []).params.memSize ≤ (State.withCtl (unit [] [] []) 62#32 64#32 0#32 0#32 0#32).ctl.dst.toNat +
        ((unit [] [] []).getX 0).toNat := by decide

/-- Count 3 in X0, modulus or amount 2 in X1, source 0, destination 61: the last halfwords of memory. -/
def three : State := State.withCtl (unit [3#32, 2#32] [] []) 0#32 61#32 0#32 0#32 0#32

theorem witness_ElementwiseVectorResults :
    Mem.wf three.mem = true ∧ VectorRuns three (elemSize .raw * (three.getX 0).toNat) (elemSize .raw * (three.getX 0).toNat) ∧
      VectorRuns (State.withCtl three 5#32 5#32 0#32 0#32 0#32) (elemSize .pix * (three.getX 0).toNat)
        (elemSize .pix * (three.getX 0).toNat) ∧ VectorRuns three (three.getX 0).toNat (three.getX 0).toNat :=
  ⟨by decide, ⟨⟨by decide, by decide⟩, .inl (by unfold RangesDisjoint; decide)⟩,
    ⟨⟨by decide, by decide⟩, .inr (by decide)⟩, ⟨⟨by decide, by decide⟩, .inl (by unfold RangesDisjoint; decide)⟩⟩

theorem witness_TileAndFillResults :
    three.getX 1 ≠ 0#32 ∧
      VectorRuns three (elemSize .raw * min (three.getX 0).toNat (three.getX 1).toNat) (elemSize .raw * (three.getX 0).toNat) ∧
      ∀ j : Nat, j < 3 * ((unit [1#32] [] []).getX 0).toNat → three.ctl.dst.toNat + j < three.params.memSize :=
  ⟨by decide, ⟨⟨by decide, by decide⟩, .inl (by unfold RangesDisjoint; decide)⟩, by decide⟩

theorem witness_CircularBlurResult :
    (∃ wc ws : Word, (wc, ws) = blurWeights (three.getX 1)) ∧
      ((0 : Nat) : Int) = (((0 : Nat) : Int) - 1) % ((1 : Nat) : Int) ∧ 0 = (0 + 1) % 1 ∧
      ((2 : Nat) : Int) = (((0 : Nat) : Int) - 1) % ((three.getX 0).toNat : Int) := ⟨⟨_, _, rfl⟩, by decide, by decide, by decide⟩

theorem witness_CircularBlurWeights :
    0 < F32.units 0x3DEEEEF0#32 ∧ F32.units 0xBD4CCCCD#32 ≤ 0 ∧ AtLeastOne 0x3F800000#32 ∧ AtLeastOne 0x7F800000#32 :=
  ⟨by decide, by decide, .inr ⟨_, rfl, by decide⟩, .inl rfl⟩

theorem witness_BlurAmountZeroCopies : three.getX 2 = 0x00000000#32 ∧ Mem.wf three.mem = true := by decide

theorem witness_VectorFaultOrder :
    ¬ RangesExist (State.withCtl three 0#32 62#32 0#32 0#32 0#32) 3 3 ∧
      RangesExist (State.withCtl three 0#32 2#32 0#32 0#32 0#32) 3 3 ∧
      ¬ RangesDisjoint (State.withCtl three 0#32 2#32 0#32 0#32 0#32) 3 3 ∧
      (State.withCtl three 0#32 2#32 0#32 0#32 0#32).ctl.src ≠ (State.withCtl three 0#32 2#32 0#32 0#32 0#32).ctl.dst ∧
      three.getX 2 = 0#32 ∧ three.params.memSize ≤ three.ctl.dst.toNat + 3 :=
  ⟨fun h => absurd (h.2 2 (by decide)) (by decide), ⟨by decide, by decide⟩,
    fun h => h 2 (by decide) 0 (by decide) (by decide), by decide, by decide, by decide⟩

/-- `latched` with a Frame Timer at this count and target. -/
def timed (count target : Nat) : State := { latched with env := { latched.env with frame := ⟨count, target⟩ } }

theorem witness_FrameTimerCountsToTarget :
    (State.withMove (timed 3 3) .frameCheck).host = .frameCheck :: [] ∧
      (timed 3 3).env.frame.target ≤ (timed 3 3).env.frame.count ∧
      (timed 2 3).env.frame.count < (timed 2 3).env.frame.target ∧
      (timed 2 3).env.frame.count + 1 < 2 ^ (timed 2 3).params.timerWidth ∧
      (State.withMove (timed 3 3) .frameReset).host = .frameReset :: [] ∧
      (State.withMove (timed 3 3) (.frameUpdate 4294967295)).host = .frameUpdate 4294967295 :: [] ∧
      4294967295 < 2 ^ (timed 3 3).params.timerWidth ∧ (timed 0 3).env.frame = ⟨0, 3⟩ ∧
      3 < 2 ^ (timed 0 3).params.timerWidth ∧
      ({ timed 0 3 with host := [.frameCheck, .frameCheck, .frameCheck, .frameCheck] } : State).host =
        List.replicate (3 + 1) .frameCheck ++ [] := by decide

theorem witness_IntervalTimerReads :
    (State.withMove latched .intervalCheck).host = .intervalCheck :: [] ∧
      latched.env.wraps = latched.env.interval.startWraps ∧
      latched.env.interval.duration < latched.params.durationBound ∧
      ({ latched with host := [.intervalCheck, .intervalCheck] } : State).host = .intervalCheck :: .intervalCheck :: [] ∧
      (State.withMove latched .intervalReset).host = .intervalReset :: [] ∧
      (State.withMove latched (.intervalUpdate 7)).host = .intervalUpdate 7 :: [] ∧
      (State.withMove latched (.elapse 4294967296)).host = .elapse 4294967296 :: [] := by decide

theorem witness_HostStoresAndStops :
    (State.withMove latched (.storeHalf 63 1#16)).host = .storeHalf 63 1#16 :: [] ∧ 63 < latched.params.memSize ∧
      (State.withMove latched (.storeByte 127 1#8)).host = .storeByte 127 1#8 :: [] ∧
      127 < 2 * latched.params.memSize ∧ Mem.wf latched.mem = true := by decide

theorem witness_HostStoresAndStops_stop : ∀ t, step (State.withMove latched (.storeHalf 64 1#16)) ≠ .next t := by
  intro t h
  have h' : step (State.withMove latched (.storeHalf 64 1#16)) = .fault .noSuchHalfword := by rfl
  rw [h'] at h
  cases h

end Sys2Proof.Tests
end

/-! ### What a command writes

`Effect` says what shape the state after a command has. `Writes` says it with the command in hand: which of the shapes
that command can reach, and which register it names (10_state.md rule R23). -/

namespace Sys2Proof.Machine

open Sys2Proof.Safety

/-- The states a command can leave behind. Every command may respond or raise a cause; it writes a register, a control
register or memory only if the table of its kind lists it. -/
inductive Writes (i : Instr) (s : State) : State → Prop
  | responded (data : Word) : Writes i s (s.respond .ok data)
  | raised (c : Cause) : Writes i s (s.raise c)
  | wroteX (d : XReg) (v : Word) (h : writesX i = some d) : Writes i s (s.setX d v).done
  | wroteC (d : CReg) (v : Color) (h : writesC i = some d) : Writes i s (s.setC d v).done
  | wroteCtl (d : XReg) (cr : Half) (name : CtlName) (hi : i = .crw d cr) (hn : ctlName s.params cr = some name)
      (hl : ctlLegal s.params name (s.getX d) = true) :
      Writes i s (State.done { s with ctl := s.ctl.set name (s.getX d) })
  | stored (a : Nat) (vs : List Half) (hm : writesMemory i = true) (hr : s.rangeOk a vs.length = true) :
      Writes i s (s.storeHalves a vs).done
  | wasReset (hi : i = .urst) : Writes i s s.resetUnit.done

/-- A meaning that chooses between two states answers a state of the kind both are of. -/
theorem exists_next_ite {P : State → Prop} {p : Prop} [Decidable p] {a b : State} (ha : P a) (hb : P b) :
    ∃ t, (if p then .next a else .next b : Host.Outcome State Fault Refusal) = .next t ∧ P t := by
  split
  · exact ⟨a, rfl, ha⟩
  · exact ⟨b, rfl, hb⟩

/-- A command whose meaning is a checked store raises a cause or stores halfwords that exist. -/
theorem Writes.of_storeUnless {i : Instr} (hm : writesMemory i = true) (s : State) (m n : Nat) {vs : List Half}
    (hn : vs.length = n) : Writes i s (s.storeUnless (s.vectorCheck m n) vs) := by
  cases h : s.vectorCheck m n with
  | none =>
    obtain ⟨-, hr, -⟩ := (State.vectorCheck_eq_none s m n).mp h
    exact .stored _ _ hm (hn ▸ hr)
  | some c => exact .raised c

/-- The same of the two commands that run the pipeline; on an empty buffer they respond only (R212). -/
theorem Writes.of_convolve {i : Instr} (hm : writesMemory i = true) (u : ConvSetup) (s : State) :
    Writes i s (convolve u s) := by
  rcases convolve_cases u s with ⟨-, h⟩ | ⟨c, -, h⟩ | ⟨vs, hl, hc, -, h⟩ <;> rw [h]
  · exact .responded 0#32
  · exact .raised c
  · obtain ⟨-, hr, -⟩ := (State.strictCheck_eq_none s _).mp hc
    exact .stored _ _ hm (hl ▸ hr)

/-- Every command answers a next state, and one its table entry allows. -/
theorem exists_exec_writes (i : Instr) (s : State) : ∃ t, exec i s = .next t ∧ Writes i s t := by
  cases i with
  | nop => exact ⟨_, rfl, .responded 0#32⟩
  | urst => exact ⟨_, rfl, .wasReset rfl⟩
  | xrd a => exact ⟨_, rfl, .responded _⟩
  | xli d imm => exact ⟨_, rfl, .wroteX d _ rfl⟩
  | xlh d imm => exact ⟨_, rfl, .wroteX d _ rfl⟩
  | xmov d a => exact ⟨_, rfl, .wroteX d _ rfl⟩
  | cli d ch imm => exact ⟨_, rfl, .wroteC d _ rfl⟩
  | cmov d a => exact ⟨_, rfl, .wroteC d _ rfl⟩
  | cget d a ch => exact ⟨_, rfl, .wroteX d _ rfl⟩
  | cset d a ch => exact ⟨_, rfl, .wroteC d _ rfl⟩
  | crw d cr =>
    simp only [exec, execCrw]
    cases hn : ctlName s.params cr with
    | none => exact ⟨_, rfl, .raised _⟩
    | some name =>
      by_cases hl : ctlLegal s.params name (s.getX d) = true
      · exact ⟨_, if_pos hl, .wroteCtl d cr name rfl hn hl⟩
      · exact ⟨_, if_neg hl, .raised _⟩
  | crr d cr =>
    simp only [exec, execCrr]
    cases ctlName s.params cr with
    | none => exact ⟨_, rfl, .raised _⟩
    | some name => exact ⟨_, rfl, .wroteX d _ rfl⟩
  | cadd d a b => exact ⟨_, rfl, .wroteC d _ rfl⟩
  | csub d a b => exact ⟨_, rfl, .wroteC d _ rfl⟩
  | cmul d a b => exact ⟨_, rfl, .wroteC d _ rfl⟩
  | cscale d a f => exact ⟨_, rfl, .wroteC d _ rfl⟩
  | clerp d a b t => exact ⟨_, rfl, .wroteC d _ rfl⟩
  | ceq d a b => exact ⟨_, rfl, .wroteX d _ rfl⟩
  | index d n col ring => exact exists_next_ite (.wroteX d _ rfl) (.raised _)
  | edge d ox oy fx fy ch =>
    simp only [exec, execEdge]
    split
    · exact ⟨_, rfl, .raised _⟩
    · exact ⟨_, rfl, .wroteX d _ rfl⟩
    · exact exists_next_ite (.wroteX d _ rfl) (.raised _)
  | pld d a base => exact exists_next_ite (.wroteC d _ rfl) (.raised _)
  | pst d a base =>
    by_cases hr : s.rangeOk (s.pixelAddr base a) 3 = true
    · exact ⟨_, if_pos hr, .stored _ _ rfl hr⟩
    · exact ⟨_, if_neg hr, .raised _⟩
  | hld d a base => exact exists_next_ite (.wroteX d _ rfl) (.raised _)
  | hst d a base =>
    by_cases hr : s.rangeOk (s.halfAddr base a) 1 = true
    · exact ⟨_, if_pos hr, .stored _ _ rfl hr⟩
    · exact ⟨_, if_neg hr, .raised _⟩
  | conv => exact ⟨_, rfl, .of_convolve rfl _ s⟩
  | blur => exact ⟨_, rfl, .of_convolve rfl _ s⟩
  | vcopy n k => exact ⟨_, rfl, .of_storeUnless rfl s _ _ (by simp)⟩
  | vtile n m k => exact exists_next_ite (.raised _) (.of_storeUnless rfl s _ _ (by simp))
  | vfill d n =>
    refine ⟨_, rfl, ?_⟩
    split
    · next hr => exact .stored _ _ rfl (by simpa [Color.halves, Nat.mul_comm] using hr)
    · exact .raised _
  | vadd n => exact ⟨_, rfl, .of_storeUnless rfl s _ _ (by simp)⟩
  | vfade n amt k => exact ⟨_, rfl, .of_storeUnless rfl s _ _ (by simp)⟩
  | vbrt n amt k => exact ⟨_, rfl, .of_storeUnless rfl s _ _ (by simp)⟩
  | vblur1 n amt k => exact ⟨_, rfl, .of_storeUnless rfl s _ _ (by simp)⟩

/-- What a command that ran did. -/
theorem exec_writes {i : Instr} {s t : State} (h : exec i s = .next t) : Writes i s t := by
  obtain ⟨t', ht', hw⟩ := exists_exec_writes i s
  cases ht'.symm.trans h
  exact hw

end Sys2Proof.Machine

/-! ### Who writes what, and what a step does -/

namespace Sys2Proof.Machine

open Sys2Proof.Safety

namespace Writes

variable {i : Instr} {s t : State}

theorem params_eq (h : Writes i s t) : t.params = s.params := by cases h <;> rfl
theorem env_eq (h : Writes i s t) : t.env = s.env := by cases h <;> rfl
theorem host_eq (h : Writes i s t) : t.host = s.host := by cases h <;> rfl

/-- R23, file X. -/
theorem getX_eq (h : Writes i s t) (hi : i ≠ .urst) {j : XReg} (hj : writesX i ≠ some j) : t.getX j = s.getX j := by
  cases h with
  | wroteX d v hd =>
    have hjd : j ≠ d := fun e => hj (e ▸ hd)
    rw [State.getX_done, State.getX_setX_ne s d v hjd]
  | wasReset hu => exact absurd hu hi
  | _ => rfl

/-- R23, file C. -/
theorem getC_eq (h : Writes i s t) (hi : i ≠ .urst) {j : CReg} (hj : writesC i ≠ some j) : t.getC j = s.getC j := by
  cases h with
  | wroteC d v hd =>
    have hjd : j ≠ d := fun e => hj (e ▸ hd)
    rw [State.getC_done, State.getC_setC_ne s d v hjd]
  | wasReset hu => exact absurd hu hi
  | _ => rfl

/-- R60. URST keeps memory too (R38). -/
theorem mem_eq (h : Writes i s t) (hm : writesMemory i = false) : t.mem = s.mem := by
  cases h with
  | stored a vs hm' => exact absurd (hm'.symm.trans hm) (by decide)
  | _ => rfl

/-- R34. -/
theorem ctl_eq (h : Writes i s t) (hu : i ≠ .urst) (hc : ∀ d cr, i ≠ .crw d cr) : t.ctl = s.ctl := by
  cases h with
  | wroteCtl d cr name hi => exact absurd hi (hc d cr)
  | wasReset hi => exact absurd hi hu
  | _ => rfl

/-- R316: only a command that raised a cause answers FAULT. -/
theorem eq_raise_of_fault (h : Writes i s t) {r : Response} (hr : t.resp = some r) (hf : r.st = .fault) :
    ∃ c, t = s.raise c := by
  cases h with
  | raised c => exact ⟨c, rfl⟩
  | _ => cases hr; cases hf

/-- A command that is executed is not answered DISCARDED (R317). -/
theorem st_ne_discarded (h : Writes i s t) {r : Response} (hr : t.resp = some r) : r.st ≠ .discarded := by
  cases h <;> cases hr <;> exact nofun

end Writes

/-- Settles O17, from what the table of each file lets a command write. -/
theorem registerFilesWrittenByTheirCommandsOnly : Obligations.RegisterFilesWrittenByTheirCommandsOnly := by
  intro i s t hi h
  have hw := exec_writes h
  exact ⟨fun _ => hw.getX_eq hi, fun _ => hw.getC_eq hi, fun hm => State.byteAt_congr (hw.mem_eq hm)⟩

/-! ### What a move of the host does -/

/-- The host-side environment after a timer move or after time passed (60_exceptions.md rules R336-R339). -/
inductive EnvEffect (s : State) : HostMove → Env → Prop
  | frameReady (h : s.env.frame.target ≤ s.env.frame.count) :
      EnvEffect s .frameCheck { s.env with answer := some true }
  | frameCounted (h : s.env.frame.count < s.env.frame.target) :
      EnvEffect s .frameCheck
        { s.env with frame := ⟨s.env.frame.count + 1, s.env.frame.target⟩, answer := some false }
  | frameReset : EnvEffect s .frameReset { s.env with frame := ⟨0, s.env.frame.target⟩ }
  | frameUpdated (target : Nat) (h : target < 2 ^ s.params.timerWidth) :
      EnvEffect s (.frameUpdate target) { s.env with frame := ⟨0, target⟩ }
  | intervalChecked : EnvEffect s .intervalCheck { s.env with answer := some (intervalReady s) }
  | intervalReset :
      EnvEffect s .intervalReset { s.env with interval := ⟨s.env.wraps, s.env.clock, s.env.interval.duration⟩ }
  | intervalUpdated (d : Nat) :
      EnvEffect s (.intervalUpdate d) { s.env with interval := ⟨s.env.wraps, s.env.clock, d⟩ }
  | elapsed (us : Nat) :
      EnvEffect s (.elapse us)
        { s.env with
          clock := BitVec.ofNat 32 (s.env.clock.toNat + us)
          wraps := s.env.wraps + (s.env.clock.toNat + us) / 2 ^ 32 }

/-- What a move did to the state without it: a word was discarded, was illegal or ran its command (R101); the unit was
reset; the host stored into memory that exists; or the environment alone changed. -/
inductive MoveEffect (s : State) : HostMove → State → Prop
  | discarded {w : Word} : MoveEffect s (.present w) s.discard
  | illegal {w : Word} : MoveEffect s (.present w) (s.raise .illegalCmd)
  | executed {w : Word} {i : Instr} {t : State} (hd : decode w = .ok i) (hw : Writes i s t) :
      MoveEffect s (.present w) t
  | wasReset : MoveEffect s .resetInput { s.resetUnit with resp := none }
  | storedHalf {a : Nat} {v : Half} (ha : a < s.params.memSize) :
      MoveEffect s (.storeHalf a v) (s.storeHalves a [v])
  | storedByte {a : Nat} {v : Byte} (ha : a < 2 * s.params.memSize) :
      MoveEffect s (.storeByte a v) { s with mem := Mem.setByte s.mem a v }
  | timed {m : HostMove} {e : Env} (he : EnvEffect s m e) : MoveEffect s m { s with env := e }

theorem present_effect {w : Word} {s t : State} (h : present w s = .next t) : MoveEffect s (.present w) t := by
  rcases present_cases w s with ⟨-, -, hp⟩ | ⟨-, ⟨e, -, hp⟩ | ⟨i, hd, hp⟩⟩ <;> rw [hp] at h
  · cases h; exact .discarded
  · cases h; exact .illegal
  · exact .executed hd (exec_writes h)

theorem frameCheck_effect {s t : State} (h : frameCheck s = .next t) : MoveEffect s .frameCheck t := by
  simp only [frameCheck] at h
  split at h
  · next hr => cases h; exact .timed (.frameReady hr)
  · next hr =>
    split at h
    · cases h; exact .timed (.frameCounted (Nat.lt_of_not_le hr))
    · cases h

/-- A move that does not stop the machine has one of these effects. -/
theorem runMove_effect {m : HostMove} {s t : State} (h : runMove m s = .next t) : MoveEffect s m t := by
  cases m with
  | present w => exact present_effect h
  | resetInput => cases h; exact .wasReset
  | storeHalf a v =>
    simp only [runMove, storeHalf] at h
    split at h
    · next ha => cases h; exact .storedHalf ha
    · cases h
  | storeByte a v =>
    simp only [runMove, storeByte] at h
    split at h
    · next ha => cases h; exact .storedByte ha
    · cases h
  | frameCheck => exact frameCheck_effect h
  | frameReset => cases h; exact .timed .frameReset
  | frameUpdate target =>
    simp only [runMove, frameUpdate] at h
    split at h
    · next ht => cases h; exact .timed (.frameUpdated target ht)
    · cases h
  | intervalCheck => cases h; exact .timed .intervalChecked
  | intervalReset => cases h; exact .timed .intervalReset
  | intervalUpdate d => cases h; exact .timed (.intervalUpdated d)
  | elapse us => cases h; exact .timed (.elapsed us)

/-- What a step did: nothing when no move was left (log 6), else the first move of the schedule. -/
theorem step_effect {s t : State} (h : step s = .next t) :
    (s.host = [] ∧ t = s) ∨ ∃ m rest, s.host = m :: rest ∧ MoveEffect { s with host := rest } m t := by
  cases hs : s.host with
  | nil =>
    rw [step_idle hs] at h
    cases h
    exact .inl ⟨rfl, rfl⟩
  | cons m rest =>
    rw [step_move hs] at h
    exact .inr ⟨m, rest, rfl, runMove_effect h⟩

/-- The same for a step whose next move is known. -/
theorem step_effect_of_host {s t : State} {m : HostMove} {rest : List HostMove} (hs : s.host = m :: rest)
    (h : step s = .next t) : MoveEffect { s with host := rest } m t := by
  rw [step_move hs] at h
  exact runMove_effect h

namespace MoveEffect

variable {s t : State} {m : HostMove}

theorem params_eq (h : MoveEffect s m t) : t.params = s.params := by
  cases h with
  | executed _ hw => exact hw.params_eq
  | _ => rfl

theorem host_eq (h : MoveEffect s m t) : t.host = s.host := by
  cases h with
  | executed _ hw => exact hw.host_eq
  | _ => rfl

/-- R34, for one move of the host. -/
theorem resetInput_or_present_of_ctl_ne (h : MoveEffect s m t) (hne : t.ctl ≠ s.ctl) :
    m = .resetInput ∨ ∃ w, m = .present w ∧ (decode w = .ok .urst ∨ ∃ d cr, decode w = .ok (.crw d cr)) := by
  cases h with
  | @executed w i _ hd hw =>
    refine .inr ⟨w, rfl, ?_⟩
    by_contra hno
    push Not at hno
    obtain ⟨hu, hc⟩ := hno
    exact hne (hw.ctl_eq (fun e => hu (e ▸ hd)) fun d cr e => hc d cr (e ▸ hd))
  | wasReset => exact .inl rfl
  | _ => exact absurd rfl hne

end MoveEffect

/-- Settles O18: no effect of a move names the parameters or the schedule. -/
theorem parametersNeverChange : Obligations.ParametersNeverChange := by
  intro s t h
  obtain ⟨hs, rfl⟩ | ⟨m, rest, hs, he⟩ := step_effect h
  · exact ⟨rfl, by rw [hs]; rfl⟩
  · exact ⟨he.params_eq, by rw [hs]; exact he.host_eq⟩

/-- Settles O16, by the command that the presented word decodes to. -/
theorem controlRegistersWrittenByCrwAndResetOnly : Obligations.ControlRegistersWrittenByCrwAndResetOnly := by
  intro s t h hne
  obtain ⟨-, rfl⟩ | ⟨m, rest, hs, he⟩ := step_effect h
  · exact absurd rfl hne
  · obtain rfl | ⟨w, rfl, hw⟩ := he.resetInput_or_present_of_ctl_ne hne
    · exact .inl ⟨rest, hs⟩
    · exact .inr ⟨w, rest, hs, hw⟩

theorem faultOf_raise (s : State) (c : Cause) : FaultOf (causeCode c) s (s.raise c) :=
  ⟨rfl, rfl, rfl, rfl, rfl, rfl, rfl, rfl, rfl, rfl⟩

/-- Settles O13: only `raise` answers FAULT and only `discard` answers DISCARDED. -/
theorem faultsAndDiscardsChangeNothing : Obligations.FaultsAndDiscardsChangeNothing := by
  intro s t w rest r hs h hr
  cases step_effect_of_host hs h with
  | discarded =>
    cases hr
    exact ⟨nofun, fun _ => rfl⟩
  | illegal =>
    cases hr
    exact ⟨fun _ => ⟨_, faultOf_raise _ .illegalCmd⟩, nofun⟩
  | executed hd hw =>
    refine ⟨fun hf => ?_, fun hf => absurd hf (hw.st_ne_discarded hr)⟩
    obtain ⟨c, rfl⟩ := hw.eq_raise_of_fault hr hf
    exact ⟨_, faultOf_raise _ c⟩
  | timed he => cases he

end Sys2Proof.Machine

/-! ### Control-register numbers -/

namespace Sys2Proof.Machine

open Sys2Proof.Safety

/-- The number of a control register (R28). -/
def CtlName.number : CtlName → Nat
  | .src => 0x0000
  | .dst => 0x0001
  | .sizeX => 0x0002
  | .sizeY => 0x0003
  | .edge => 0x0004
  | .kxLen => 0x0005
  | .kyLen => 0x0006
  | .kx i => 0x0010 + i.val
  | .ky i => 0x0020 + i.val

/-- A run has the seven named registers and the taps below its `K_MAX` (R28, R33). -/
def CtlName.InRun (p : Config.Params) : CtlName → Prop
  | .kx i => i.val < p.kMax.val
  | .ky i => i.val < p.kMax.val
  | .src | .dst | .sizeX | .sizeY | .edge | .kxLen | .kyLen => True

theorem tapIndex_add (p : Config.Params) (first : Nat) {i : Fin 15} (hi : i.val < p.kMax.val) :
    tapIndex p first (first + i.val) = some i := by
  simp [tapIndex, hi]

theorem tapIndex_eq_none {p : Config.Params} {first cr : Nat} (h : first + p.kMax.val ≤ cr) :
    tapIndex p first cr = none :=
  dif_neg (by omega)

/-- Beyond the named registers a number can only name a tap. -/
theorem ctlName_of_six_lt (p : Config.Params) {cr : Half} (h : 6 < cr.toNat) :
    ctlName p cr = ((tapIndex p 0x10 cr.toNat).map .kx).or ((tapIndex p 0x20 cr.toNat).map .ky) := by
  unfold ctlName
  split <;> try omega
  cases tapIndex p 0x10 cr.toNat <;> rfl

/-- R28 in one line: a number names the register it is the number of, if the run has that register. -/
theorem ctlName_eq_some_iff {p : Config.Params} {cr : Half} {name : CtlName} :
    ctlName p cr = some name ↔ cr.toNat = name.number ∧ name.InRun p := by
  constructor
  · intro h
    by_cases h6 : 6 < cr.toNat
    · rw [ctlName_of_six_lt p h6, Option.or_eq_some_iff] at h
      obtain h | ⟨-, h⟩ := h
      all_goals
        obtain ⟨i, hi, rfl⟩ := Option.map_eq_some_iff.mp h
        exact tapIndex_eq_some hi
    · generalize hn : cr.toNat = n at h6
      simp only [ctlName, hn] at h
      interval_cases n <;> cases h <;> exact ⟨rfl, trivial⟩
  · rintro ⟨hn, hp⟩
    cases name with
    | kx i =>
      have h6 : 6 < cr.toNat := by rw [hn]; simp only [CtlName.number]; omega
      rw [ctlName_of_six_lt p h6, hn]
      simp [CtlName.number, tapIndex_add p 0x10 hp]
    | ky i =>
      have h6 : 6 < cr.toNat := by rw [hn]; simp only [CtlName.number]; omega
      have hx : tapIndex p 0x10 (0x20 + i.val) = none := tapIndex_eq_none (by omega)
      rw [ctlName_of_six_lt p h6, hn]
      simp [CtlName.number, hx, tapIndex_add p 0x20 hp]
    | _ => simp only [ctlName, hn, CtlName.number]

/-- No register has two numbers. -/
theorem ctlName_injective {p : Config.Params} {cr cr' : Half} {name : CtlName} (h : ctlName p cr = some name)
    (h' : ctlName p cr' = some name) : cr = cr' := by
  obtain ⟨hn, -⟩ := ctlName_eq_some_iff.mp h
  obtain ⟨hn', -⟩ := ctlName_eq_some_iff.mp h'
  exact BitVec.eq_of_toNat_eq (hn.trans hn'.symm)

theorem ctlName_eq_none {p : Config.Params} {cr : Half} (h6 : 0x0006 < cr.toNat)
    (hx : cr.toNat < 0x0010 ∨ 0x0010 + p.kMax.val ≤ cr.toNat)
    (hy : cr.toNat < 0x0020 ∨ 0x0020 + p.kMax.val ≤ cr.toNat) : ctlName p cr = none := by
  rw [Option.eq_none_iff_forall_ne_some]
  intro name h
  obtain ⟨hn, hp⟩ := ctlName_eq_some_iff.mp h
  cases name <;> simp only [CtlName.number, CtlName.InRun] at hn hp <;> omega

theorem legalLen_iff {p : Config.Params} {v : Word} :
    legalLen p v = true ↔ v.toNat % 2 = 1 ∧ v.toNat ≤ p.kMax.val := by
  simp [legalLen]

/-- Settles O33, from `ctlName_eq_some_iff`. -/
theorem controlRegisterNumbersAndValues : Obligations.ControlRegisterNumbersAndValues := by
  intro p
  refine ⟨⟨rfl, rfl, rfl, rfl, rfl, rfl, rfl⟩, fun i hi => ⟨?_, ?_⟩, fun cr => ctlName_eq_none, fun v => ?_⟩
  · exact ctlName_eq_some_iff.mpr ⟨(BitVec.toNat_ofNat _ 16).trans (Nat.mod_eq_of_lt (by omega)), hi⟩
  · exact ctlName_eq_some_iff.mpr ⟨(BitVec.toNat_ofNat _ 16).trans (Nat.mod_eq_of_lt (by omega)), hi⟩
  · exact ⟨rfl, rfl, decide_eq_true_iff, decide_eq_true_iff, decide_eq_true_iff, legalLen_iff, legalLen_iff,
      fun _ => ⟨rfl, rfl⟩⟩

/-! ### Reading a control register back -/

/-- An accepted CRW (R292). -/
theorem exec_crw_of_legal {s : State} {d : XReg} {cr : Half} {name : CtlName} (hn : ctlName s.params cr = some name)
    (hl : ctlLegal s.params name (s.getX d) = true) :
    exec (.crw d cr) s = .next (State.done { s with ctl := s.ctl.set name (s.getX d) }) := by
  simp [exec, execCrw, hn, hl]

/-- CRR of an assigned number (R293). -/
theorem exec_crr_of_assigned {s : State} {d : XReg} {cr : Half} {name : CtlName} (hn : ctlName s.params cr = some name) :
    exec (.crr d cr) s = .next (s.setX d (s.ctl.get name)).done := by
  simp [exec, execCrr, hn]

/-- A command other than URST and an accepted CRW of the number `cr` keeps the register that `cr` names. -/
theorem Writes.ctl_get_eq {i : Instr} {s t : State} (h : Writes i s t) {cr : Half} {name : CtlName}
    (hn : ctlName s.params cr = some name) (hu : i ≠ .urst)
    (hc : ∀ d : XReg, i = .crw d cr → ctlLegal s.params name (s.getX d) = false) : t.ctl.get name = s.ctl.get name := by
  cases h with
  | wroteCtl d cr' name' hi hn' hl =>
    have hne : name ≠ name' := by
      rintro rfl
      obtain rfl := ctlName_injective hn hn'
      exact absurd (hl.symm.trans (hc d hi)) (by decide)
    exact Ctl.get_set_ne s.ctl _ hne
  | wasReset hi => exact absurd hi hu
  | _ => rfl

/-- Settles O35: CRR reads the control register, and only an accepted CRW of its number or URST touches that. -/
theorem controlReadReturnsLastWrite : Obligations.ControlReadReturnsLastWrite := by
  intro i s t u e cr name hn ht hu
  have hw := exec_writes ht
  have hread : u.getX e = t.ctl.get name := by
    rw [exec_crr_of_assigned (hw.params_eq ▸ hn)] at hu
    cases hu
    simp
  rw [hread]
  refine ⟨?_, ?_, hw.ctl_get_eq hn⟩
  · rintro d rfl hl
    rw [exec_crw_of_legal hn hl] at ht
    cases ht
    exact Ctl.get_set_self s.ctl name _
  · rintro rfl
    cases ht
    rfl

end Sys2Proof.Machine

/-! ### Reset -/

namespace Sys2Proof.Machine

open Sys2Proof.Safety

/-- A state whose registers and latch are those of the launch state is the table of R38. -/
theorem resetTable_of_eq {t : State} (hx : t.x = State.reset.x) (hc : t.c = State.reset.c) (hk : t.ctl = Ctl.reset)
    (hf : t.flt = false) (hfc : t.fcause = 0x00#8) : ResetTable t := by
  have hget : ∀ i : XReg, State.reset.getX i = 0x00000000#32 := by decide
  have hgetC : ∀ i : CReg, State.reset.getC i = ⟨0#16, 0#16, 0#16⟩ := by decide
  refine ⟨fun i => (State.getX_congr hx i).trans (hget i), fun i => (State.getC_congr hc i).trans (hgetC i), ?_⟩
  rw [hk]
  exact ⟨rfl, rfl, rfl, rfl, rfl, rfl, rfl, by decide, by decide, hf, hfc⟩

/-- Settles O9: reset writes the launch values and nothing outside the unit. -/
theorem resetLeavesTheTable : Obligations.ResetLeavesTheTable := by
  refine ⟨resetTable_of_eq rfl rfl rfl rfl rfl, fun s => ?_, fun s rest hs => ?_⟩
  · exact ⟨s.resetUnit.done, rfl, resetTable_of_eq rfl rfl rfl rfl rfl, rfl, fun _ => rfl, rfl, rfl, rfl⟩
  · exact ⟨_, step_move hs, resetTable_of_eq rfl rfl rfl rfl rfl, fun _ => rfl, rfl, rfl⟩

/-! ### The invariant -/

/-- `K_MAX` is odd (R6), so a kernel of one tap is legal. -/
theorem one_le_kMax {p : Config.Params} (h : p.legal = true) : 1 ≤ p.kMax.val := by
  simp only [Config.Params.legal, Bool.and_eq_true, decide_eq_true_eq] at h
  omega

/-- The control registers of R38 hold legal values. -/
theorem ctlInv_reset {p : Config.Params} (h : p.legal = true) : ctlInv p Ctl.reset := by
  have hlen : legalLen p 1#32 = true := legalLen_iff.mpr ⟨rfl, one_le_kMax h⟩
  have hx : ∀ i : Fin 15, Ctl.reset.kx[i] = 0#32 := by decide
  have hy : ∀ i : Fin 15, Ctl.reset.ky[i] = 0#32 := by decide
  exact ⟨by decide, by decide, by decide, hlen, hlen, fun i _ => hx i, fun i _ => hy i⟩

/-- An accepted CRW keeps the control registers legal, and writes no tap place at or above `K_MAX`. -/
theorem ctlInv_set {p : Config.Params} {k : Ctl} (h : ctlInv p k) {name : CtlName} {v : Word} (hp : name.InRun p)
    (hl : ctlLegal p name v = true) : ctlInv p (k.set name v) := by
  obtain ⟨hsx, hsy, he, hkx, hky, htx, hty⟩ := h
  cases name with
  | src => exact ⟨hsx, hsy, he, hkx, hky, htx, hty⟩
  | dst => exact ⟨hsx, hsy, he, hkx, hky, htx, hty⟩
  | sizeX => exact ⟨of_decide_eq_true hl, hsy, he, hkx, hky, htx, hty⟩
  | sizeY => exact ⟨hsx, of_decide_eq_true hl, he, hkx, hky, htx, hty⟩
  | edge => exact ⟨hsx, hsy, of_decide_eq_true hl, hkx, hky, htx, hty⟩
  | kxLen => exact ⟨hsx, hsy, he, hl, hky, htx, hty⟩
  | kyLen => exact ⟨hsx, hsy, he, hkx, hl, htx, hty⟩
  | kx j =>
    refine ⟨hsx, hsy, he, hkx, hky, fun i hi => ?_, hty⟩
    have hji : CtlName.kx i ≠ .kx j := fun e => absurd (CtlName.kx.inj e ▸ hi) (Nat.not_le.mpr hp)
    exact (Ctl.get_set_ne k v hji).trans (htx i hi)
  | ky j =>
    refine ⟨hsx, hsy, he, hkx, hky, htx, fun i hi => ?_⟩
    have hji : CtlName.ky i ≠ .ky j := fun e => absurd (CtlName.ky.inj e ▸ hi) (Nat.not_le.mpr hp)
    exact (Ctl.get_set_ne k v hji).trans (hty i hi)

/-- A latch that was just set holds a code of R311. -/
theorem latchInv_raise (s : State) (c : Cause) : latchInv (s.raise c) := ⟨nofun, fun _ => ⟨c, rfl⟩⟩

theorem memInv_storeHalves {s : State} (h : memInv s) {a : Nat} {vs : List Half}
    (hr : s.rangeOk a vs.length = true) : memInv (s.storeHalves a vs) := by
  obtain ⟨hwf, hin⟩ := h
  exact ⟨s.wf_storeHalves hwf a vs, s.inside_storeHalves hin hr⟩

theorem memInv_setByte {s : State} (h : memInv s) {a : Nat} (ha : a < 2 * s.params.memSize) (v : Byte) :
    memInv { s with mem := Mem.setByte s.mem a v } := by
  obtain ⟨hwf, hin⟩ := h
  exact ⟨Mem.wf_setByte hwf a v, Mem.inside_setByte hin ha v⟩

/-- Time does not go back when the 32-bit clock wraps: the wrap is counted (R339; log 12). -/
theorem time_le_elapse (wraps : Nat) (clock : Word) (us : Nat) :
    wraps * 2 ^ 32 + clock.toNat ≤
      (wraps + (clock.toNat + us) / 2 ^ 32) * 2 ^ 32 + (BitVec.ofNat 32 (clock.toNat + us)).toNat := by
  rw [BitVec.toNat_ofNat]
  omega

/-- The timers stay in their range: `check()` counts only below the target, a new target is checked against
`TIMER_WIDTH`, a stamp is the present, and time does not go back (R336-R339). -/
theorem EnvEffect.keeps_envInv {s : State} {m : HostMove} {e : Env} (h : EnvEffect s m e) (hs : envInv s) :
    envInv { s with env := e } := by
  obtain ⟨htarget, hcount, hstamp⟩ := hs
  cases h with
  | frameReady => exact ⟨htarget, hcount, hstamp⟩
  | frameCounted hlt => exact ⟨htarget, hlt, hstamp⟩
  | frameReset => exact ⟨htarget, Nat.zero_le _, hstamp⟩
  | frameUpdated target ht => exact ⟨ht, Nat.zero_le _, hstamp⟩
  | intervalChecked => exact ⟨htarget, hcount, hstamp⟩
  | intervalReset => exact ⟨htarget, hcount, Nat.le_refl _⟩
  | intervalUpdated d => exact ⟨htarget, hcount, Nat.le_refl _⟩
  | elapsed us =>
    exact ⟨htarget, hcount, hstamp.trans (time_le_elapse _ _ us)⟩

/-- A unit reset keeps the invariant: the parameters, memory and the timers are not touched. -/
theorem inv_resetUnit {s : State} (h : Inv s) : Inv s.resetUnit := by
  obtain ⟨hp, -, -, hmem, henv⟩ := h
  exact ⟨hp, ctlInv_reset hp, ⟨fun _ => rfl, nofun⟩, hmem, henv⟩

theorem inv_raise {s : State} (h : Inv s) (c : Cause) : Inv (s.raise c) := by
  obtain ⟨hp, hctl, -, hmem, henv⟩ := h
  exact ⟨hp, hctl, latchInv_raise s c, hmem, henv⟩

/-- Every command keeps the invariant. The invariant does not speak of the response or of the register files. -/
theorem Writes.keeps_inv {i : Instr} {s t : State} (h : Writes i s t) (hs : Inv s) : Inv t := by
  cases h with
  | responded data => exact hs
  | raised c => exact inv_raise hs c
  | wroteX d v hd => exact hs
  | wroteC d v hd => exact hs
  | wroteCtl d cr name hi hn hl =>
    obtain ⟨hp, hctl, hlatch, hmem, henv⟩ := hs
    obtain ⟨-, hin⟩ := ctlName_eq_some_iff.mp hn
    exact ⟨hp, ctlInv_set hctl hin hl, hlatch, hmem, henv⟩
  | stored a vs hm hr =>
    obtain ⟨hp, hctl, hlatch, hmem, henv⟩ := hs
    exact ⟨hp, hctl, hlatch, memInv_storeHalves hmem hr, henv⟩
  | wasReset hi => exact (inv_resetUnit hs : Inv s.resetUnit)

/-- Every move of the host keeps the invariant. -/
theorem MoveEffect.keeps_inv {s t : State} {m : HostMove} (h : MoveEffect s m t) (hs : Inv s) : Inv t := by
  cases h with
  | discarded => exact hs
  | illegal => exact inv_raise hs .illegalCmd
  | executed hd hw => exact hw.keeps_inv hs
  | wasReset => exact (inv_resetUnit hs : Inv s.resetUnit)
  | storedHalf ha =>
    obtain ⟨hp, hctl, hlatch, hmem, henv⟩ := hs
    exact ⟨hp, hctl, hlatch, memInv_storeHalves hmem (by simpa [State.rangeOk] using ha), henv⟩
  | storedByte ha =>
    obtain ⟨hp, hctl, hlatch, hmem, henv⟩ := hs
    exact ⟨hp, hctl, hlatch, memInv_setByte hmem ha _, henv⟩
  | timed he =>
    obtain ⟨hp, hctl, hlatch, hmem, henv⟩ := hs
    exact ⟨hp, hctl, hlatch, hmem, he.keeps_envInv henv⟩

/-- Settles O12: whatever the next move does keeps the invariant. -/
theorem stepKeepsTheInvariant : Obligations.StepKeepsTheInvariant := by
  intro s t hs h
  obtain ⟨-, rfl⟩ | ⟨m, rest, -, he⟩ := step_effect h
  · exact hs
  · exact he.keeps_inv hs

/-- Settles O11, part by part; the control registers by `ctlInv_reset`. -/
theorem resetMeetsTheInvariant : Obligations.ResetMeetsTheInvariant := by
  have hlegal : Config.launch.legal = true := by decide
  have hmem : memInv State.reset := ⟨Mem.wf_reset, rfl⟩
  have henv : envInv State.reset := ⟨by decide, Nat.le_refl _, Nat.le_refl _⟩
  exact ⟨hlegal, ctlInv_reset hlegal, ⟨fun _ => rfl, nofun⟩, hmem, henv⟩

end Sys2Proof.Machine

/-! ### Loads and stores outside memory -/

namespace Sys2Proof.Machine

open Sys2Proof.Safety

/-- R68: a range with a halfword at or above `MEM_SIZE` fails the check. -/
theorem State.not_rangeOk_of_le {s : State} {a n k : Nat} (hk : k < n) (h : s.params.memSize ≤ a + k) :
    ¬ s.rangeOk a n = true := fun hr =>
  Nat.not_lt.mpr h ((s.rangeOk_iff a n).mp hr (a + k) (Nat.le_add_right a k) (Nat.add_lt_add_left hk a))

/-- Settles O51: the last halfword of the operand fails the range check, before anything is read or written. -/
theorem accessOutsideMemoryFaults : Obligations.AccessOutsideMemoryFaults := by
  intro s a base b hb
  obtain rfl : b = s.baseAddr base := by cases base <;> exact hb
  refine ⟨fun d h => ?_, fun d h => ?_⟩
  · have hr : ¬ s.rangeOk (s.pixelAddr base a) 3 = true := State.not_rangeOk_of_le (k := 2) (by decide) h
    exact ⟨⟨_, if_neg hr, faultOf_raise s .memRange⟩, _, if_neg hr, faultOf_raise s .memRange⟩
  · have hr : ¬ s.rangeOk (s.halfAddr base a) 1 = true := State.not_rangeOk_of_le (k := 0) (by decide) h
    exact ⟨⟨_, if_neg hr, faultOf_raise s .memRange⟩, _, if_neg hr, faultOf_raise s .memRange⟩

end Sys2Proof.Machine

/-! ### The host's stores, and the moves that stop the machine -/

namespace Sys2Proof.Machine

open Sys2Proof.Safety

/-- A halfword is its two bytes, the high one first (R66). -/
theorem State.halfAt_eq_append (s : State) (a : Nat) :
    s.halfAt a = s.byteAt (Mem.highByte s.params.byteOrder a) ++ s.byteAt (Mem.lowByte s.params.byteOrder a) := rfl

/-- The frame of a store of halfwords. -/
theorem onlyStores_storeHalves (s : State) (a : Nat) (vs : List Half) :
    OnlyStores a vs.length s (s.storeHalves a vs) :=
  ⟨rfl, rfl, rfl, fun _ => s.byteAt_storeHalves_ne, rfl, rfl, rfl, rfl, rfl⟩

/-- The frame of a store of one byte: it lies in halfword `a / 2`. -/
theorem onlyStores_setByte (s : State) (a : Nat) (v : Byte) :
    OnlyStores (a / 2) 1 s { s with mem := Mem.setByte s.mem a v } :=
  ⟨rfl, rfl, rfl, fun _ hb => Mem.byteAt_setByte_ne s.mem v (by omega), rfl, rfl, rfl, rfl, rfl⟩

/-- A host store to a halfword that exists (R75). -/
theorem step_storeHalf {s : State} {a : Nat} {v : Half} {rest : List HostMove} (hs : s.host = .storeHalf a v :: rest)
    (ha : a < s.params.memSize) : step s = .next (State.storeHalves { s with host := rest } a [v]) :=
  (step_move hs).trans (if_pos ha)

/-- A host store to a byte that exists (R66, R75). -/
theorem step_storeByte {s : State} {a : Nat} {v : Byte} {rest : List HostMove} (hs : s.host = .storeByte a v :: rest)
    (ha : a < 2 * s.params.memSize) : step s = .next { s with host := rest, mem := Mem.setByte s.mem a v } :=
  (step_move hs).trans (if_pos ha)

/-- The moves that stop the machine: a host store outside memory (log 9), and a Frame Timer target or count that
`TIMER_WIDTH` bits do not hold (log 11). -/
inductive Stops (s : State) : HostMove → Prop
  | storeHalf {a : Nat} {v : Half} (h : s.params.memSize ≤ a) : Stops s (.storeHalf a v)
  | storeByte {a : Nat} {v : Byte} (h : 2 * s.params.memSize ≤ a) : Stops s (.storeByte a v)
  | frameUpdate {k : Nat} (h : 2 ^ s.params.timerWidth ≤ k) : Stops s (.frameUpdate k)
  | frameCheck (hw : s.env.frame.count < s.env.frame.target)
      (h : 2 ^ s.params.timerWidth ≤ s.env.frame.count + 1) : Stops s .frameCheck

/-- A presented word never stops the machine: it is discarded, illegal, or a command, and every command answers. -/
theorem exists_present_eq_next (w : Word) (s : State) : ∃ t, present w s = .next t := by
  obtain ⟨-, -, hp⟩ | ⟨-, ⟨e, -, hp⟩ | ⟨i, -, hp⟩⟩ := present_cases w s
  · exact ⟨_, hp⟩
  · exact ⟨_, hp⟩
  · obtain ⟨t, ht, -⟩ := exists_exec_writes i s
    exact ⟨t, hp.trans ht⟩

/-- A move that does not stop the machine has a next state. -/
theorem exists_runMove_eq_next {m : HostMove} {s : State} (h : ¬ Stops s m) : ∃ t, runMove m s = .next t := by
  cases m with
  | present w => exact exists_present_eq_next w s
  | storeHalf a v => exact ⟨_, if_pos (Nat.lt_of_not_le fun ha => h (.storeHalf ha))⟩
  | storeByte a v => exact ⟨_, if_pos (Nat.lt_of_not_le fun ha => h (.storeByte ha))⟩
  | frameUpdate k => exact ⟨_, if_pos (Nat.lt_of_not_le fun hk => h (.frameUpdate hk))⟩
  | frameCheck =>
    by_cases hr : s.env.frame.target ≤ s.env.frame.count
    · exact ⟨_, if_pos hr⟩
    · have hc : s.env.frame.count + 1 < 2 ^ s.params.timerWidth :=
        Nat.lt_of_not_le fun hc => h (.frameCheck (Nat.lt_of_not_le hr) hc)
      exact ⟨_, (if_neg hr).trans (if_pos hc)⟩
  | resetInput | frameReset | intervalCheck | intervalReset | intervalUpdate d | elapse us => exact ⟨_, rfl⟩

/-- Such a move ends in the fault of a store outside memory or is refused for the Frame Timer's width. -/
theorem Stops.runMove_eq {m : HostMove} {s : State} (h : Stops s m) :
    runMove m s = .fault .noSuchHalfword ∨ runMove m s = .refused .frameTimerWidth := by
  cases h with
  | storeHalf h => exact .inl (if_neg (Nat.not_lt.mpr h))
  | storeByte h => exact .inl (if_neg (Nat.not_lt.mpr h))
  | frameUpdate h => exact .inr (if_neg (Nat.not_lt.mpr h))
  | frameCheck hw h => exact .inr ((if_neg (Nat.not_le.mpr hw)).trans (if_neg (Nat.not_lt.mpr h)))

/-- A step has no next state exactly when its move is one of those. -/
theorem step_stops_iff {s : State} {m : HostMove} {rest : List HostMove} (hs : s.host = m :: rest) :
    (∀ t, step s ≠ .next t) ↔ Stops { s with host := rest } m := by
  rw [step_move hs]
  constructor
  · intro h
    by_contra hm
    obtain ⟨t, ht⟩ := exists_runMove_eq_next hm
    exact h t ht
  · intro h t ht
    obtain hr | hr := h.runMove_eq <;> cases hr.symm.trans ht

/-- Settles O60: the stores by what a write leaves of memory, the stops by `step_stops_iff`. -/
theorem hostStoresAndStops : Obligations.HostStoresAndStops := by
  refine ⟨fun s a v rest hs ha hm => ?_, fun s a v rest hs ha hm => ?_, fun s a => ?_, fun s => ⟨fun h => ?_, ?_⟩⟩
  · refine ⟨_, step_storeHalf hs ha, ?_, onlyStores_storeHalves _ a [v], rfl⟩
    exact State.halfAt_storeHalves_self { s with host := rest } hm a (vs := [v]) Nat.zero_lt_one
  · exact ⟨_, step_storeByte hs ha, Mem.byteAt_setByte_self hm a v, onlyStores_setByte _ a v,
      fun _ => Mem.byteAt_setByte_ne s.mem v, rfl⟩
  · rw [State.halfAt_eq_append]
    cases s.params.byteOrder <;> rfl
  · cases hs : s.host with
    | nil => exact absurd (step_idle hs) (h s)
    | cons m rest =>
      cases (step_stops_iff hs).mp h with
      | storeHalf ha => exact .inl ⟨_, _, _, rfl, ha⟩
      | storeByte ha => exact .inr (.inl ⟨_, _, _, rfl, ha⟩)
      | frameUpdate hk => exact .inr (.inr (.inl ⟨_, _, rfl, hk⟩))
      | frameCheck hw hc => exact .inr (.inr (.inr ⟨_, rfl, hw, hc⟩))
  · rintro (⟨a, v, rest, hs, h⟩ | ⟨a, v, rest, hs, h⟩ | ⟨k, rest, hs, h⟩ | ⟨rest, hs, hw, h⟩)
    · exact (step_stops_iff hs).mpr (.storeHalf h)
    · exact (step_stops_iff hs).mpr (.storeByte h)
    · exact (step_stops_iff hs).mpr (.frameUpdate h)
    · exact (step_stops_iff hs).mpr (.frameCheck hw h)

end Sys2Proof.Machine

/-! ### Decoding and encoding are inverse

The decoder reads the fields of a row in the order D, A, B, C, E, M. Peeling its binds off gives one equation per field,
and `packR_fields` (or `packI_fields`) puts the word together again from them. -/

namespace Sys2Proof.Codec

/-- A chain of field readers succeeds when its first reader does and the rest does on what that read. -/
theorem bind_eq_ok {ε α β : Type} {x : Except ε α} {f : α → Except ε β} {b : β} :
    (x >>= f) = .ok b ↔ ∃ a, x = .ok a ∧ f a = .ok b := by
  cases x with
  | error e => exact ⟨nofun, nofun⟩
  | ok a => exact ⟨fun h => ⟨a, rfl, h⟩, fun ⟨_, ha, h⟩ => by cases ha; exact h⟩

theorem packR_eq_of_fields {w : Word} {op : BitVec 8} {d a b c e m : BitVec 4} (hop : opOf w = op)
    (hd : fieldD w = d) (ha : fieldA w = a) (hb : fieldB w = b) (hc : fieldC w = c) (he : fieldE w = e)
    (hm : fieldM w = m) : packR op d a b c e m = w := by
  subst hop hd ha hb hc he hm
  exact packR_fields w

theorem packI_eq_of_fields {w : Word} {op : BitVec 8} {d sel : BitVec 4} (hop : opOf w = op) (hd : fieldD w = d)
    (hsel : fieldA w = sel) : packI op d sel (immOf w) = w := by
  subst hop hd hsel
  exact packI_fields w

/-- Format N (R91) accepts only the word with every field zero. -/
theorem formatN_eq_ok {w : Word} {i j : Instr} :
    formatN w i = .ok j ↔ packR (opOf w) 0#4 0#4 0#4 0#4 0#4 0#4 = w ∧ i = j := by
  have hlow : w.extractLsb' 0 24 = 0#24 ↔ packR (opOf w) 0#4 0#4 0#4 0#4 0#4 0#4 = w :=
    ⟨packR_of_low24, fun h => by rw [← h, low24_packR]⟩
  rw [← hlow, formatN]
  split
  · next h => simp [h]
  · next h => simp [h]

theorem decode_encode (i : Instr) : decode (encode i) = .ok i := by
  cases i with
  | nop | urst | conv | blur => simp [encode, decode, formatN]
  | _ => simp [encode, decode, bind, Except.bind, pure, Except.pure]

theorem encode_eq_of_decode {w : Word} {i : Instr} (h : decode w = .ok i) : encode i = w := by
  revert h
  unfold decode
  split
  case h_34 => exact nofun
  -- Format N: NOP, URST, CONV, BLUR.
  case h_1 hop | h_2 hop | h_25 hop | h_26 hop =>
    rw [formatN_eq_ok, hop]
    rintro ⟨hw, rfl⟩
    exact hw
  -- In the other rows each field reader gives the equation of its field.
  all_goals
    simp only [bind_eq_ok, reg_eq_ok, unused_eq_ok, chan_eq_ok, bsel_eq_ok, elem_eq_ok, forall_exists_index, and_imp,
      pure, Except.pure, Except.ok.injEq]
    intros
    subst i
  -- Format I: XLI, XLH, CLI, CRW, CRR.
  case h_4 | h_5 | h_7 | h_11 | h_12 => exact packI_eq_of_fields ‹_› ‹_› ‹_›
  -- Format R.
  all_goals exact packR_eq_of_fields ‹_› ‹_› ‹_› ‹_› ‹_› ‹_› ‹_›

/-- The words the decoder accepts are the encodings (R100). -/
theorem exists_decode_iff_exists_encode {w : Word} : (∃ i, decode w = .ok i) ↔ ∃ i, encode i = w := by
  constructor
  · rintro ⟨i, hi⟩
    exact ⟨i, encode_eq_of_decode hi⟩
  · rintro ⟨i, rfl⟩
    exact ⟨i, decode_encode i⟩

/-- Settles O1, command by command: every field reads back as it was written. -/
theorem decodeOfEncode : Obligations.DecodeOfEncode := decode_encode

/-- Settles O2: the fields the decoder read are all the fields of the word. -/
theorem encodeOfDecode : Obligations.EncodeOfDecode := fun _ _ => encode_eq_of_decode

/-- Settles O4: the words are closed, so the decoder is run on each. -/
theorem specWordsDecode : Obligations.SpecWordsDecode := by
  unfold Obligations.SpecWordsDecode
  decide

end Sys2Proof.Codec

/-! ### The three tables of the encoding agree

`FitsSomeRow` says of a word that it fits the field table of R99. The decoder accepts exactly these words, and
spec/opcode_table.json, whose rows are computed from those of the field table, admits exactly these words. -/

namespace Sys2Proof.Codec

open Sys2Proof.Safety Sys2Proof.WellFormed

/-- Every field of the word holds what its kind admits (R94). -/
def FieldsFit (ks : List FieldKind) (w : Word) : Prop := ∀ kf ∈ ks.zip (fieldsOf w), kf.1.admits kf.2 = true

/-- The word has the opcode of a row of R99, and its fields fit that row. -/
def FitsSomeRow (w : Word) : Prop := ∃ row ∈ fieldRows, row.1 = opOf w ∧ FieldsFit row.2 w

theorem illegalWord_iff {w : Word} : IllegalWord w ↔ ¬ FitsSomeRow w := by
  unfold IllegalWord FitsSomeRow FieldsFit opOf
  push Not
  simp only [Bool.not_eq_true]

theorem fieldsFit_iff {d a b c e m : FieldKind} {w : Word} :
    FieldsFit [d, a, b, c, e, m] w ↔
      d.admits (fieldD w) = true ∧ a.admits (fieldA w) = true ∧ b.admits (fieldB w) = true ∧
        c.admits (fieldC w) = true ∧ e.admits (fieldE w) = true ∧ m.admits (fieldM w) = true := by
  simp [FieldsFit, fieldsOf, fieldD, fieldA, fieldB, fieldC, fieldE, fieldM]

/-- No opcode has two rows. -/
theorem fieldRows_ops_nodup : (fieldRows.map Prod.fst).Nodup := by decide

/-- So fitting some row is fitting the row of one's opcode. -/
theorem fitsSomeRow_iff_of_lookup {w : Word} {op : BitVec 8} {ks : List FieldKind} (hop : opOf w = op)
    (hl : fieldRows.lookup op = some ks) : FitsSomeRow w ↔ FieldsFit ks w := by
  have hmem : (op, ks) ∈ fieldRows := by
    obtain ⟨l, l', h, -⟩ := List.lookup_eq_some_iff.mp hl
    simp [h]
  constructor
  · rintro ⟨row, hrow, hrop, hfit⟩
    obtain rfl : row = (op, ks) := List.inj_on_of_nodup_map fieldRows_ops_nodup hrow hmem (hrop.trans hop)
    exact hfit
  · intro h
    exact ⟨_, hmem, hop.symm, h⟩

/-! #### The decoder -/

theorem exists_eq_ok_iff_isOk {ε α : Type} {x : Except ε α} : (∃ a, x = .ok a) ↔ x.isOk = true := by
  cases x <;> simp [Except.isOk, Except.toBool]

theorem exists_bind_eq_ok {ε α β : Type} {x : Except ε α} {f : α → Except ε β} :
    (∃ b, (x >>= f) = .ok b) ↔ ∃ a, x = .ok a ∧ ∃ b, f a = .ok b := by
  simp only [bind_eq_ok]
  exact ⟨fun ⟨b, a, ha, hb⟩ => ⟨a, ha, b, hb⟩, fun ⟨a, ha, b, hb⟩ => ⟨b, a, ha, hb⟩⟩

section
variable {f : BitVec 4}

/-! Each field reader succeeds exactly on what R94 admits. -/

theorem exists_reg_eq_ok : (∃ r, reg f = .ok r) ↔ FieldKind.reg.admits f = true :=
  exists_eq_ok_iff_isOk.trans (by revert f; decide)

theorem exists_chan_eq_ok : (∃ ch, chan f = .ok ch) ↔ FieldKind.chan.admits f = true :=
  exists_eq_ok_iff_isOk.trans (by revert f; decide)

theorem exists_bsel_eq_ok : (∃ b, bsel f = .ok b) ↔ FieldKind.bit.admits f = true :=
  exists_eq_ok_iff_isOk.trans (by revert f; decide)

theorem exists_elem_eq_ok : (∃ k, elem f = .ok k) ↔ FieldKind.bit.admits f = true :=
  exists_eq_ok_iff_isOk.trans (by revert f; decide)

theorem exists_unused_eq_ok : (∃ u, unused f = .ok u) ↔ FieldKind.zero.admits f = true :=
  exists_eq_ok_iff_isOk.trans (by revert f; decide)

theorem admits_imm : FieldKind.imm.admits f = true := rfl

theorem admits_zero_iff : FieldKind.zero.admits f = true ↔ f = 0#4 := by revert f; decide

end

theorem exists_formatN_eq_ok {w : Word} {i : Instr} :
    (∃ j, formatN w i = .ok j) ↔ FieldsFit [.zero, .zero, .zero, .zero, .zero, .zero] w := by
  simp only [formatN_eq_ok, exists_and_left, exists_eq', and_true, fieldsFit_iff, admits_zero_iff]
  constructor
  · intro h
    rw [← h]
    simp
  · rintro ⟨hd, ha, hb, hc, he, hm⟩
    exact packR_eq_of_fields rfl hd ha hb hc he hm

/-- R101: the decoder accepts exactly the words that fit a row of R99, opcode by opcode. -/
theorem exists_decode_iff_fitsSomeRow {w : Word} : (∃ i, decode w = .ok i) ↔ FitsSomeRow w := by
  unfold decode
  split
  case h_34 =>
    have hop : opOf w ∉ fieldRows.map Prod.fst := by
      simp only [fieldRows, List.cons_append, List.nil_append, List.map_cons, List.map_nil, List.mem_cons,
        List.not_mem_nil, or_false, not_or]
      and_intros <;> assumption
    refine ⟨nofun, fun ⟨row, hrow, hrop, _⟩ => absurd ?_ hop⟩
    exact hrop ▸ List.mem_map_of_mem hrow
  case h_1 hop | h_2 hop | h_25 hop | h_26 hop =>
    rw [exists_formatN_eq_ok, fitsSomeRow_iff_of_lookup hop rfl]
  all_goals
    rw [fitsSomeRow_iff_of_lookup ‹_› rfl]
    simp only [fieldsFit_iff, exists_bind_eq_ok, exists_and_right, exists_reg_eq_ok, exists_chan_eq_ok,
      exists_bsel_eq_ok, exists_elem_eq_ok, exists_unused_eq_ok, admits_imm, pure, Except.pure, Except.ok.injEq,
      exists_eq', and_true]

theorem illegalWord_iff_not_exists_decode {w : Word} : IllegalWord w ↔ ¬ ∃ i, decode w = .ok i := by
  rw [illegalWord_iff, exists_decode_iff_fitsSomeRow]

/-! #### match and mask -/

/-- The bits of a field that R94 fixes at zero. -/
def fixedBits : FieldKind → BitVec 4
  | .reg => 8#4
  | .chan => 12#4
  | .bit => 14#4
  | .zero => 15#4
  | .imm => 0#4

/-- R94: the fixed bits are zero and a channel number is not 3. -/
theorem admits_iff {k : FieldKind} {f : BitVec 4} :
    k.admits f = true ↔ f &&& fixedBits k = 0#4 ∧ (k = .chan → f.extractLsb' 0 2 ≠ 3#2) := by
  cases k <;> revert f <;> decide

/-- The row of spec/opcode_table.json for a row of R99: `match` is the opcode alone, `mask` the opcode and the fixed
bits, and the channel stands in `A` or in `M`. -/
def tableRow (row : BitVec 8 × List FieldKind) : Row :=
  match row with
  | (op, [d, a, b, c, e, m]) =>
    { pattern := packR op 0#4 0#4 0#4 0#4 0#4 0#4
      mask := packR (BitVec.allOnes 8) (fixedBits d) (fixedBits a) (fixedBits b) (fixedBits c) (fixedBits e)
        (fixedBits m)
      chanAt := if a = .chan then some 16 else if m = .chan then some 0 else none }
  | _ => ⟨0#32, 0#32, none⟩

theorem table_eq_map : table = fieldRows.map tableRow := by decide

/-- A row of R99 has six fields, and at most one channel, in `A` or in `M`. -/
def chanInAOrM : List FieldKind → Bool
  | [d, a, b, c, e, m] => [d, b, c, e].all (· ≠ .chan) && (a ≠ .chan || m ≠ .chan)
  | _ => false

theorem chanInAOrM_of_mem : ∀ row ∈ fieldRows, chanInAOrM row.2 = true := by decide

theorem packR_inj {op op' : BitVec 8} {d a b c e m d' a' b' c' e' m' : BitVec 4} :
    packR op d a b c e m = packR op' d' a' b' c' e' m' ↔
      op = op' ∧ d = d' ∧ a = a' ∧ b = b' ∧ c = c' ∧ e = e' ∧ m = m' := by
  constructor
  · intro h
    refine ⟨?_, ?_, ?_, ?_, ?_, ?_, ?_⟩
    · simpa using congrArg opOf h
    · simpa using congrArg fieldD h
    · simpa using congrArg fieldA h
    · simpa using congrArg fieldB h
    · simpa using congrArg fieldC h
    · simpa using congrArg fieldE h
    · simpa using congrArg fieldM h
  · rintro ⟨rfl, rfl, rfl, rfl, rfl, rfl, rfl⟩
    rfl

/-- Masking with the fixed bits looks at each field by itself. -/
theorem and_mask_eq_pattern_iff {w : Word} {op : BitVec 8} {d a b c e m : BitVec 4} :
    w &&& packR (BitVec.allOnes 8) d a b c e m = packR op 0#4 0#4 0#4 0#4 0#4 0#4 ↔
      opOf w = op ∧ fieldD w &&& d = 0#4 ∧ fieldA w &&& a = 0#4 ∧ fieldB w &&& b = 0#4 ∧ fieldC w &&& c = 0#4 ∧
        fieldE w &&& e = 0#4 ∧ fieldM w &&& m = 0#4 := by
  conv_lhs => rw [← packR_fields w]
  rw [packR_and, packR_inj, BitVec.and_allOnes]

/-- The channel bits of a word are the low bits of its field `A` or `M`. -/
theorem extractLsb_chan (w : Word) :
    w.extractLsb' 16 2 = (fieldA w).extractLsb' 0 2 ∧ w.extractLsb' 0 2 = (fieldM w).extractLsb' 0 2 := by
  constructor
  · ext i hi
    simp [fieldA, show i < 4 by omega]
  · ext i hi
    simp [fieldM]

/-- A row whose channel stands in `A` or in `M`, or that has none, compares exactly that channel with 3. -/
theorem chanOk_iff {r : Row} {a m : FieldKind} (h : a ≠ .chan ∨ m ≠ .chan)
    (hr : r.chanAt = if a = .chan then some 16 else if m = .chan then some 0 else none) {w : Word} :
    r.chanOk w = true ↔
      (a = .chan → (fieldA w).extractLsb' 0 2 ≠ 3#2) ∧ (m = .chan → (fieldM w).extractLsb' 0 2 ≠ 3#2) := by
  obtain ⟨hA, hM⟩ := extractLsb_chan w
  rw [← hA, ← hM, Row.chanOk, hr]
  by_cases ha : a = .chan
  · have hm : m ≠ .chan := h.resolve_left (not_not_intro ha)
    simp [ha, hm]
  · by_cases hm : m = .chan <;> simp [ha, hm]

/-- A row of spec/opcode_table.json admits a word when the row of R99 it comes from does. -/
theorem tableRow_admits_iff {row : BitVec 8 × List FieldKind} (h : chanInAOrM row.2 = true) {w : Word} :
    ((tableRow row).fits w && (tableRow row).chanOk w) = true ↔ row.1 = opOf w ∧ FieldsFit row.2 w := by
  obtain ⟨op, ks⟩ := row
  unfold chanInAOrM at h
  split at h
  · next d a b c e m hks =>
    obtain rfl : ks = [d, a, b, c, e, m] := hks
    simp only [List.all_cons, List.all_nil, Bool.and_true, Bool.and_eq_true, Bool.or_eq_true, decide_eq_true_eq] at h
    obtain ⟨⟨hd, hb, hc, he⟩, ham⟩ := h
    rw [Bool.and_eq_true, chanOk_iff ham rfl, Row.fits, beq_iff_eq, tableRow, and_mask_eq_pattern_iff, fieldsFit_iff]
    simp only [admits_iff, hd, hb, hc, he, false_implies, and_true]
    tauto
  · cases h

/-- R101 steps 2 to 4. -/
theorem legal_iff_fitsSomeRow {w : Word} : legal w = true ↔ FitsSomeRow w := by
  rw [legal, table_eq_map, List.any_map, List.any_eq_true]
  exact exists_congr fun row => and_congr_right fun hrow => tableRow_admits_iff (chanInAOrM_of_mem row hrow)

/-- Settles O3: the decoder and spec/opcode_table.json both accept the words that fit the field table of R99. -/
theorem decoderAcceptsTheOpcodeTable : Obligations.DecoderAcceptsTheOpcodeTable := fun _ =>
  exists_decode_iff_fitsSomeRow.trans legal_iff_fitsSomeRow.symm

end Sys2Proof.Codec

/-! ### Presenting a word -/

namespace Sys2Proof.Machine

open Sys2Proof.Safety Sys2Proof.Codec

/-- R101 step 5: a legal word runs its command, unless the latch discards it. -/
theorem present_eq_exec {s : State} {w : Word} {i : Instr} (hf : s.flt = false ∨ w = urstWord)
    (hd : decode w = .ok i) : present w s = exec i s := by
  obtain ⟨hflt, hw, -⟩ | ⟨-, ⟨e, he, -⟩ | ⟨j, hj, hp⟩⟩ := present_cases w s
  · exact absurd hf (by simp [hflt, hw])
  · cases hd.symm.trans he
  · cases hd.symm.trans hj
    exact hp

/-- R100: with the latch clear an illegal word raises `ILLEGAL_CMD`. -/
theorem present_eq_raise {s : State} {w : Word} (hf : s.flt = false) (hd : ¬ ∃ i, decode w = .ok i) :
    present w s = .next (s.raise .illegalCmd) := by
  obtain ⟨hflt, -, -⟩ | ⟨-, ⟨e, -, hp⟩ | ⟨i, hi, -⟩⟩ := present_cases w s
  · exact absurd (hflt.symm.trans hf) (by decide)
  · exact hp
  · exact absurd ⟨i, hi⟩ hd

theorem decode_tableWord {nbits w : Nat} {i : Instr} (h : decodeTableWord nbits w = some i) :
    decode (tableWord nbits w) = .ok i := by
  unfold decodeTableWord at h
  split at h
  · next j hj => cases h; exact hj
  · cases h

/-- Settles O5, from what presenting a legal word does. -/
theorem stepRunsTheDecodedCommand : Obligations.StepRunsTheDecodedCommand := by
  refine ⟨fun s w rest i hs hf hd => ?_, fun s nbits w i hf hd => ?_, fun s => step_idle⟩
  · exact (step_move hs).trans (present_eq_exec hf hd)
  · exact (step_move (s.presenting_host _)).trans (present_eq_exec (.inl hf) (decode_tableWord hd))

/-- Settles O6: the illegal words are those that fit no row of R99, which the decoder rejects. -/
theorem illegalWordRaisesIllegalCmd : Obligations.IllegalWordRaisesIllegalCmd := by
  refine ⟨fun s w rest hs hf hw => ?_, fun w => ?_, ?_, ?_⟩
  · have hd : ¬ ∃ i, decode w = .ok i := illegalWord_iff_not_exists_decode.mp hw
    exact ⟨_, (step_move hs).trans (present_eq_raise hf hd), faultOf_raise _ .illegalCmd⟩
  · rw [illegalWord_iff_not_exists_decode, exists_decode_iff_exists_encode]
  all_goals
    rw [illegalWord_iff_not_exists_decode, exists_eq_ok_iff_isOk]
    decide

/-! ### Responses -/

/-- The data of an OK response (R98). -/
def okData (s : State) : Instr → Word
  | .xrd a => s.getX a
  | _ => 0#32

theorem okData_eq_zero {s : State} {i : Instr} (h : ∀ a, i ≠ .xrd a) : okData s i = 0#32 := by
  cases i with
  | xrd a => exact absurd rfl (h a)
  | _ => rfl

/-- A command that ran raised a cause, which URST never does, or answered OK with its data. -/
inductive Answers (i : Instr) (s : State) : State → Prop
  | ok {t : State} (h : t.resp = some ⟨.ok, okData s i⟩) : Answers i s t
  | raised (c : Cause) (h : i ≠ .urst) : Answers i s (s.raise c)

section
variable {i : Instr} {s : State}

/-- The commands that write memory are neither XRD nor URST. -/
theorem okData_and_ne_urst_of_writesMemory (hm : writesMemory i = true) : okData s i = 0#32 ∧ i ≠ .urst := by
  refine ⟨okData_eq_zero ?_, ?_⟩
  · rintro a rfl
    cases hm
  · rintro rfl
    cases hm

theorem Answers.of_storeUnless (hm : writesMemory i = true) (c : Option Cause) (vs : List Half) :
    Answers i s (s.storeUnless c vs) := by
  obtain ⟨hd, hi⟩ := okData_and_ne_urst_of_writesMemory (s := s) hm
  cases c with
  | none => exact .ok (hd ▸ rfl)
  | some c => exact .raised c hi

theorem Answers.of_convolve (hm : writesMemory i = true) (u : ConvSetup) : Answers i s (convolve u s) := by
  obtain ⟨hd, hi⟩ := okData_and_ne_urst_of_writesMemory (s := s) hm
  obtain ⟨-, h⟩ | ⟨c, -, h⟩ | ⟨vs, -, -, -, h⟩ := convolve_cases u s <;> rw [h]
  · exact .ok (hd ▸ rfl)
  · exact .raised c hi
  · exact .ok (hd ▸ rfl)

end

/-- Every command answers (R98). -/
theorem exists_exec_answers (i : Instr) (s : State) : ∃ t, exec i s = .next t ∧ Answers i s t := by
  cases i with
  | nop | urst | xrd a => exact ⟨_, rfl, .ok rfl⟩
  | xli d imm | xlh d imm | xmov d a | cget d a ch | ceq d a b => exact ⟨_, rfl, .ok rfl⟩
  | cli d ch imm | cmov d a | cset d a ch => exact ⟨_, rfl, .ok rfl⟩
  | cadd d a b | csub d a b | cmul d a b | cscale d a f | clerp d a b t => exact ⟨_, rfl, .ok rfl⟩
  | crw d cr =>
    simp only [exec, execCrw]
    cases ctlName s.params cr with
    | none => exact ⟨_, rfl, .raised _ nofun⟩
    | some name => exact exists_next_ite (.ok rfl) (.raised _ nofun)
  | crr d cr =>
    simp only [exec, execCrr]
    cases ctlName s.params cr with
    | none => exact ⟨_, rfl, .raised _ nofun⟩
    | some name => exact ⟨_, rfl, .ok rfl⟩
  | edge d ox oy fx fy ch =>
    simp only [exec, execEdge]
    split
    · exact ⟨_, rfl, .raised _ nofun⟩
    · exact ⟨_, rfl, .ok rfl⟩
    · exact exists_next_ite (.ok rfl) (.raised _ nofun)
  | index d n col ring => exact exists_next_ite (.ok rfl) (.raised _ nofun)
  | pld d a base | pst d a base | hld d a base | hst d a base => exact exists_next_ite (.ok rfl) (.raised _ nofun)
  | conv | blur => exact ⟨_, rfl, .of_convolve rfl _⟩
  | vtile n m k => exact exists_next_ite (.raised _ nofun) (.of_storeUnless rfl _ _)
  | vcopy n k | vfill d n | vadd n | vfade n amt k | vbrt n amt k | vblur1 n amt k =>
    exact ⟨_, rfl, .of_storeUnless rfl _ _⟩

/-- A command is executed with the latch set only if it is URST (R317). -/
theorem eq_urst_of_flt {s : State} {w : Word} {i : Instr} (hf : s.flt = false ∨ w = urstWord) (hd : decode w = .ok i)
    (hflt : s.flt = true) : i = .urst := by
  obtain hf | rfl := hf
  · exact absurd (hflt.symm.trans hf) (by decide)
  · exact Except.ok.inj (hd.symm.trans (decode_encode .urst))

/-- Settles O15, by what presenting a word can do. -/
theorem everyPresentedWordIsAnswered : Obligations.EveryPresentedWordIsAnswered := by
  refine ⟨fun s w rest hs => ?_, rfl, rfl, rfl⟩
  rw [step_move hs]
  obtain ⟨hflt, hw, hp⟩ | ⟨hf, hrun⟩ := present_cases w { s with host := rest }
  · exact ⟨_, _, hp, rfl, ⟨fun _ => ⟨hflt, hw⟩, fun _ => rfl⟩, fun _ => rfl, nofun, nofun⟩
  have hlatch : ¬ (s.flt = true ∧ w ≠ urstWord) := by
    rintro ⟨hflt, hw⟩
    exact absurd (hflt.symm.trans (hf.resolve_right hw)) (by decide)
  obtain ⟨e, he, hp⟩ | ⟨i, hd, hp⟩ := hrun
  · have hw : w ≠ urstWord := by
      rintro rfl
      cases he.symm.trans (decode_encode .urst)
    exact ⟨_, _, hp, rfl, iff_of_false nofun hlatch, nofun, fun _ => ⟨hf.resolve_right hw, rfl, rfl⟩, nofun⟩
  · obtain ⟨t, ht, ha⟩ := exists_exec_answers i { s with host := rest }
    cases ha with
    | ok hr =>
      refine ⟨t, _, hp.trans ht, hr, iff_of_false nofun hlatch, nofun, nofun, fun _ => ⟨i, hd, ?_, okData_eq_zero⟩⟩
      rintro a rfl
      rfl
    | raised c hi =>
      have hflt : s.flt = false := Bool.eq_false_iff.mpr fun h => hi (eq_urst_of_flt hf hd h)
      exact ⟨_, _, hp.trans ht, rfl, iff_of_false nofun hlatch, nofun, fun _ => ⟨hflt, rfl, rfl⟩, nofun⟩

end Sys2Proof.Machine

/-! ### Binary32 patterns

A finite pattern is its exponent field, counted down by one, above its significand: as a number `d × 2^23 + q`, with the
leading bit of the significand carrying into the exponent field. -/

namespace Sys2Proof.Machine.F32

theorem expo_eq (w : Word) : expo w = w.toNat / 2 ^ 23 % 2 ^ 8 := by
  simp [expo, Nat.shiftRight_eq_div_pow]

theorem frac_eq (w : Word) : frac w = w.toNat % 2 ^ 23 := by
  simp [frac]

theorem frac_lt (w : Word) : frac w < 2 ^ 23 := by
  rw [frac_eq]
  exact Nat.mod_lt _ (by decide)

theorem mag_of_expo_eq_zero {w : Word} (h : expo w = 0) : mag w = frac w := if_pos h

theorem mag_of_expo_ne_zero {w : Word} (h : expo w ≠ 0) : mag w = (2 ^ 23 + frac w) * 2 ^ (expo w - 1) := by
  rw [mag, if_neg h, Nat.shiftLeft_eq]

/-- A pattern below infinity is finite. -/
theorem value_of_lt {w : Word} (h : w.toNat < 0x7F800000) : value w = .num (mag w) := by
  have he : expo w ≠ 255 := by
    rw [expo_eq]
    omega
  have hs : w.msb = false := BitVec.msb_eq_false_iff_two_mul_lt.mpr (by omega)
  rw [value, if_neg he, units, hs]
  rfl

/-- What a pattern is worth, read off exponent and significand. -/
theorem mag_of_toNat_eq {w : Word} {d q : Nat} (hw : w.toNat = d * 2 ^ 23 + q) (hlt : w.toNat < 0x7F800000)
    (hq : q ≤ 2 ^ 24) (hd : d ≠ 0 → 2 ^ 23 ≤ q) : mag w = q * 2 ^ d := by
  have he := expo_eq w
  have hf := frac_eq w
  rcases Nat.lt_or_ge q (2 ^ 23) with hlo | hlo
  · obtain rfl : d = 0 := by omega
    rw [mag_of_expo_eq_zero (by omega)]
    omega
  · rw [mag_of_expo_ne_zero (by omega)]
    rcases Nat.lt_or_ge q (2 ^ 24) with hhi | hhi
    · rw [show expo w - 1 = d by omega, show 2 ^ 23 + frac w = q by omega]
    · rw [show expo w - 1 = d + 1 by omega, show frac w = 0 by omega, show q = 2 ^ 24 by omega, pow_succ]
      ring

/-! #### The grid of binary32 numbers -/

/-- From the binade of spacing `2^d` on, `v` units are a multiple of that spacing: the binary32 numbers at least 0, were
the exponent not bounded above. Every negative number counts, as none is nearest to a real at least 0. -/
def OnGrid (v : Int) : Prop := ∀ d : Nat, 2 ^ d ∣ v ∨ v < 2 ^ (d + 23)

theorem onGrid_mul_two_pow {a : Nat} (ha : a < 2 ^ 24) (e : Nat) : OnGrid ((a * 2 ^ e : Nat) : Int) := by
  intro d
  rcases Nat.lt_or_ge e d with hed | hed
  · right
    have hle : 2 ^ 24 * 2 ^ e ≤ 2 ^ (d + 23) := by
      rw [← pow_add]
      exact Nat.pow_le_pow_right (by decide) (by omega)
    exact_mod_cast lt_of_lt_of_le (Nat.mul_lt_mul_of_pos_right ha (Nat.two_pow_pos e)) hle
  · left
    exact_mod_cast Dvd.dvd.mul_left (pow_dvd_pow 2 hed) a

theorem onGrid_mag (w : Word) : OnGrid (mag w) := by
  have hf := frac_lt w
  by_cases he : expo w = 0
  · rw [mag_of_expo_eq_zero he, ← Nat.mul_one (frac w)]
    exact onGrid_mul_two_pow (by omega) 0
  · rw [mag_of_expo_ne_zero he]
    exact onGrid_mul_two_pow (by omega) _

/-- Every finite pattern lies on the grid. -/
theorem onGrid_of_value {w : Word} {v : Int} (h : value w = .num v) : OnGrid v := by
  have hv : units w = v := by
    rw [value] at h
    split at h
    · split at h <;> cases h
    · cases h
      rfl
  rw [← hv, units]
  split
  · exact fun d => .inr (by have := pow_pos (show (0 : Int) < 2 by decide) (d + 23); omega)
  · exact onGrid_mag w

/-! #### The rounding shift -/

/-- `roundShift n sh` is nearest to `n / 2^sh`, and even where two numbers are. -/
theorem roundShift_spec (n sh : Nat) :
    2 * n ≤ (2 * roundShift n sh + 1) * 2 ^ sh ∧ 2 * roundShift n sh * 2 ^ sh ≤ 2 * n + 2 ^ sh ∧
      (2 * n = (2 * roundShift n sh + 1) * 2 ^ sh ∨ 2 * roundShift n sh * 2 ^ sh = 2 * n + 2 ^ sh →
        roundShift n sh % 2 = 0) := by
  have hn := Nat.div_add_mod n (2 ^ sh)
  have hr := Nat.mod_lt n (Nat.two_pow_pos sh)
  have hrem : n - n / 2 ^ sh * 2 ^ sh = n % 2 ^ sh := by
    rw [Nat.mul_comm]
    omega
  simp only [roundShift, Nat.shiftLeft_eq, Nat.shiftRight_eq_div_pow, hrem, one_mul]
  generalize n / 2 ^ sh = q at *
  generalize n % 2 ^ sh = r at *
  generalize 2 ^ sh = u at *
  rw [Nat.mul_comm] at hn
  split
  · next h =>
    rw [show 2 * (q + 1) * u = 2 * (q * u) + 2 * u by ring, show (2 * (q + 1) + 1) * u = 2 * (q * u) + 3 * u by ring]
    omega
  · next h =>
    rw [show 2 * q * u = 2 * (q * u) by ring, show (2 * q + 1) * u = 2 * (q * u) + u by ring]
    omega

theorem roundShift_le {n sh m : Nat} (h : n < m * 2 ^ sh) : roundShift n sh ≤ m := by
  obtain ⟨-, hlo, -⟩ := roundShift_spec n sh
  by_contra hm
  have := Nat.mul_le_mul_right (2 ^ sh) (show m + 1 ≤ roundShift n sh by omega)
  rw [Nat.mul_assoc] at hlo
  rw [Nat.add_mul] at this
  omega

theorem le_roundShift {n sh m : Nat} (h : m * 2 ^ sh ≤ n) : m ≤ roundShift n sh := by
  obtain ⟨hhi, -, -⟩ := roundShift_spec n sh
  by_contra hm
  have := Nat.mul_le_mul_right (2 ^ sh) (show roundShift n sh + 1 ≤ m by omega)
  rw [Nat.add_mul, Nat.mul_assoc] at hhi
  rw [Nat.add_mul] at this
  have := Nat.two_pow_pos sh
  omega

/-- An even number is reached from the half below it on. -/
theorem two_mul_le_roundShift_iff {n sh m : Nat} :
    2 * m ≤ roundShift n sh ↔ 4 * m * 2 ^ sh ≤ 2 * n + 2 ^ sh := by
  obtain ⟨hhi, hlo, heven⟩ := roundShift_spec n sh
  generalize roundShift n sh = r at *
  rw [Nat.mul_assoc] at hlo heven ⊢
  rw [Nat.add_mul, Nat.mul_assoc] at hhi heven
  constructor
  · intro h
    have := Nat.mul_le_mul_right (2 ^ sh) h
    rw [Nat.mul_assoc] at this
    omega
  · intro h
    by_contra hm
    have hlt := Nat.mul_le_mul_right (2 ^ sh) (show r + 1 ≤ 2 * m by omega)
    rw [Nat.mul_assoc, Nat.add_mul] at hlt
    have hr : r % 2 = 0 := heven (.inl (by omega))
    have hlt' := Nat.mul_le_mul_right (2 ^ sh) (show r + 2 ≤ 2 * m by omega)
    rw [Nat.mul_assoc, Nat.add_mul] at hlt'
    have := Nat.two_pow_pos sh
    omega

/-! #### The spacing at a number -/

theorem le_ulpExp (n k : Nat) : k ≤ ulpExp n k := le_max_right _ _

theorem lt_two_pow_ulpExp (n k : Nat) : n < 2 ^ 24 * 2 ^ ulpExp n k := by
  rw [← pow_add]
  exact Nat.lt_log2_self.trans_le (Nat.pow_le_pow_right (by decide) (by simp only [ulpExp]; omega))

theorem two_pow_ulpExp_le {n k : Nat} (h : ulpExp n k ≠ k) : 2 ^ 23 * 2 ^ ulpExp n k ≤ n := by
  have hl : ulpExp n k + 23 = n.log2 := by
    simp only [ulpExp] at h ⊢
    omega
  have hn : n ≠ 0 := by
    rintro rfl
    simp at hl
  rw [← pow_add, Nat.add_comm, hl]
  exact Nat.log2_self_le hn

theorem roundShift_ulpExp_le (n k : Nat) : roundShift n (ulpExp n k) ≤ 2 ^ 24 := roundShift_le (lt_two_pow_ulpExp n k)

theorem le_roundShift_ulpExp {n k : Nat} (h : ulpExp n k ≠ k) : 2 ^ 23 ≤ roundShift n (ulpExp n k) :=
  le_roundShift (two_pow_ulpExp_le h)

/-! #### The rounded number -/

theorem roundUnits_mul (n k : Nat) : roundUnits n k * 2 ^ k = roundShift n (ulpExp n k) * 2 ^ ulpExp n k := by
  rw [roundUnits, Nat.shiftLeft_eq, Nat.mul_assoc, ← pow_add, Nat.sub_add_cancel (le_ulpExp n k)]

/-- No whole multiple of the shifted-out unit is nearer than the rounded one, and a tie is even. -/
theorem roundShift_nearest (n sh : Nat) (j : Int) :
    |(n : Int) - roundShift n sh * 2 ^ sh| ≤ |(n : Int) - j * 2 ^ sh| ∧
      (j ≠ roundShift n sh → |(n : Int) - roundShift n sh * 2 ^ sh| = |(n : Int) - j * 2 ^ sh| →
        roundShift n sh % 2 = 0) := by
  obtain ⟨hhi, hlo, heven⟩ := roundShift_spec n sh
  have hu : (0 : Int) < 2 ^ sh := pow_pos (by decide) sh
  rw [Nat.mul_assoc] at hlo heven
  rw [Nat.add_mul, Nat.mul_assoc] at hhi heven
  zify at hhi hlo heven
  generalize roundShift n sh = r at *
  generalize (2 : Int) ^ sh = u at *
  rcases lt_trichotomy j r with hj | rfl | hj
  · have := Int.mul_le_mul_of_nonneg_right (show j + 1 ≤ r by omega) hu.le
    rw [Int.add_mul] at this
    rcases abs_cases ((n : Int) - r * u) with ⟨h, -⟩ | ⟨h, -⟩ <;> rw [h, abs_of_nonneg (by omega)] <;> omega
  · exact ⟨le_rfl, fun h => absurd rfl h⟩
  · have := Int.mul_le_mul_of_nonneg_right (show (r : Int) + 1 ≤ j by omega) hu.le
    rw [Int.add_mul] at this
    rcases abs_cases ((n : Int) - r * u) with ⟨h, -⟩ | ⟨h, -⟩ <;> rw [h, abs_of_nonpos (by omega)] <;> omega

/-- R135: no binary32 number is nearer than the rounded one, and a tie has an even significand. A number with bits below
the spacing at `n` lies below the binade of `n`, so the bottom of that binade is nearer. -/
theorem roundUnits_nearest (n k : Nat) {v : Int} (hv : OnGrid v) :
    |(n : Int) - roundUnits n k * 2 ^ k| ≤ |(n : Int) - v * 2 ^ k| ∧
      (v ≠ roundUnits n k → |(n : Int) - roundUnits n k * 2 ^ k| = |(n : Int) - v * 2 ^ k| →
        roundShift n (ulpExp n k) % 2 = 0) := by
  have hk : (0 : Int) < 2 ^ k := pow_pos (by decide) k
  have hu : (roundUnits n k : Int) * 2 ^ k = roundShift n (ulpExp n k) * 2 ^ ulpExp n k := by
    exact_mod_cast roundUnits_mul n k
  have hexp : ulpExp n k - k + k = ulpExp n k := Nat.sub_add_cancel (le_ulpExp n k)
  have hgrid (j : Int) : j * 2 ^ (ulpExp n k - k) * 2 ^ k = j * 2 ^ ulpExp n k := by
    rw [mul_assoc, ← pow_add, hexp]
  by_cases hdvd : (2 : Int) ^ (ulpExp n k - k) ∣ v
  · obtain ⟨j, rfl⟩ := hdvd
    rw [hu, mul_comm _ j, hgrid j]
    obtain ⟨hle, htie⟩ := roundShift_nearest n (ulpExp n k) j
    refine ⟨hle, fun hne => htie ?_⟩
    rintro rfl
    exact hne (mul_right_cancel₀ hk.ne' ((hgrid _).trans hu.symm))
  · have he : ulpExp n k ≠ k := fun he => hdvd (by simp [he])
    have hbot : (2 : Int) ^ 23 * 2 ^ ulpExp n k ≤ n := by exact_mod_cast two_pow_ulpExp_le he
    have hlt : v * 2 ^ k < 2 ^ 23 * 2 ^ ulpExp n k := by
      rw [← hgrid, ← pow_add, Nat.add_comm 23]
      exact Int.mul_lt_mul_of_pos_right ((hv _).resolve_left hdvd) hk
    obtain ⟨hle, -⟩ := roundShift_nearest n (ulpExp n k) (2 ^ 23)
    rw [← hu, abs_of_nonneg (by omega : (0 : Int) ≤ n - 2 ^ 23 * 2 ^ ulpExp n k)] at hle
    rw [abs_of_nonneg (by omega : (0 : Int) ≤ n - v * 2 ^ k)]
    omega

/-- Rounding is monotone against the grid, from below. -/
theorem le_roundUnits {n k : Nat} {v : Int} (hv : OnGrid v) (h : v * 2 ^ k ≤ n) : v ≤ roundUnits n k := by
  have hk : (0 : Int) < 2 ^ k := pow_pos (by decide) k
  obtain ⟨hle, -⟩ := roundUnits_nearest n k hv
  rw [abs_of_nonneg (by omega : (0 : Int) ≤ n - v * 2 ^ k)] at hle
  have := le_abs_self ((n : Int) - roundUnits n k * 2 ^ k)
  exact Int.le_of_mul_le_mul_right (by omega) hk

/-- Rounding is monotone against the grid, from above. -/
theorem roundUnits_le {n k : Nat} {v : Int} (hv : OnGrid v) (h : n ≤ v * 2 ^ k) : (roundUnits n k : Int) ≤ v := by
  have hk : (0 : Int) < 2 ^ k := pow_pos (by decide) k
  obtain ⟨hle, -⟩ := roundUnits_nearest n k hv
  rw [abs_of_nonpos (by omega : (n : Int) - v * 2 ^ k ≤ 0)] at hle
  have := neg_le_abs ((n : Int) - roundUnits n k * 2 ^ k)
  exact Int.le_of_mul_le_mul_right (by omega) hk

/-! #### The pattern of the rounded number -/

theorem toNat_rneNat (n k : Nat) :
    (rneNat n k).toNat = min ((ulpExp n k - k) * 2 ^ 23 + roundShift n (ulpExp n k)) 0x7F800000 := by
  simp only [rneNat]
  split
  · next h => exact (min_eq_right h).symm
  · next h => rw [BitVec.toNat_ofNat, Nat.mod_eq_of_lt (by omega), min_eq_left (by omega)]

/-- The pattern reaches infinity from `2^128 − 2^103` on. -/
theorem overflow_iff (n k : Nat) :
    0x7F800000 ≤ (ulpExp n k - k) * 2 ^ 23 + roundShift n (ulpExp n k) ↔ (2 ^ 277 - 2 ^ 252) * 2 ^ k ≤ n := by
  have hk := le_ulpExp n k
  have hlt := lt_two_pow_ulpExp n k
  have hr := roundShift_ulpExp_le n k
  rcases lt_trichotomy (ulpExp n k) (253 + k) with he | he | he
  · have hpow : 2 ^ ulpExp n k ≤ 2 ^ 252 * 2 ^ k := by
      rw [← pow_add]
      exact Nat.pow_le_pow_right (by decide) (by omega)
    refine iff_of_false ?_ ?_ <;> omega
  · have hpow : (2 : Nat) ^ ulpExp n k = 2 ^ 253 * 2 ^ k := by rw [he, pow_add]
    have h := two_mul_le_roundShift_iff (n := n) (sh := ulpExp n k) (m := 2 ^ 23)
    rw [hpow] at h
    omega
  · have hpow : 2 ^ 254 * 2 ^ k ≤ 2 ^ ulpExp n k := by
      rw [← pow_add]
      exact Nat.pow_le_pow_right (by decide) (by omega)
    have hlo := two_pow_ulpExp_le (n := n) (k := k) (by omega)
    have hr' := le_roundShift_ulpExp (n := n) (k := k) (by omega)
    refine iff_of_true ?_ ?_ <;> omega

theorem rneNat_of_overflow {n k : Nat} (h : (2 ^ 277 - 2 ^ 252) * 2 ^ k ≤ n) : rneNat n k = 0x7F800000#32 :=
  if_pos ((overflow_iff n k).mpr h)

/-- Short of infinity the answer's pattern is exponent above significand, and its value the rounded number. -/
theorem rneNat_of_lt {n k : Nat} (h : n < (2 ^ 277 - 2 ^ 252) * 2 ^ k) :
    (rneNat n k).toNat = (ulpExp n k - k) * 2 ^ 23 + roundShift n (ulpExp n k) ∧
      value (rneNat n k) = .num (roundUnits n k) := by
  have hlt := mt (overflow_iff n k).mp (Nat.not_le.mpr h)
  have hw : (rneNat n k).toNat = (ulpExp n k - k) * 2 ^ 23 + roundShift n (ulpExp n k) := by
    rw [toNat_rneNat]
    omega
  have hfin : (rneNat n k).toNat < 0x7F800000 := by omega
  have hlead : ulpExp n k - k ≠ 0 → 2 ^ 23 ≤ roundShift n (ulpExp n k) := fun hd => le_roundShift_ulpExp (by omega)
  refine ⟨hw, ?_⟩
  rw [value_of_lt hfin, mag_of_toNat_eq hw hfin (roundShift_ulpExp_le n k) hlead, roundUnits, Nat.shiftLeft_eq]

/-- The answer is infinite or the rounded number. -/
theorem value_rneNat_cases (n k : Nat) :
    ((2 ^ 277 - 2 ^ 252) * 2 ^ k ≤ n ∧ value (rneNat n k) = .inf false) ∨
      (n < (2 ^ 277 - 2 ^ 252) * 2 ^ k ∧ value (rneNat n k) = .num (roundUnits n k)) := by
  rcases Nat.lt_or_ge n ((2 ^ 277 - 2 ^ 252) * 2 ^ k) with h | h
  · exact .inr ⟨h, (rneNat_of_lt h).2⟩
  · exact .inl ⟨h, rneNat_of_overflow h ▸ rfl⟩

theorem msb_rneNat (n k : Nat) : (rneNat n k).msb = false := by
  have := toNat_rneNat n k
  exact BitVec.msb_eq_false_iff_two_mul_lt.mpr (by omega)

theorem frac_rneNat_mod_two {n k : Nat} (h : n < (2 ^ 277 - 2 ^ 252) * 2 ^ k) :
    frac (rneNat n k) % 2 = roundShift n (ulpExp n k) % 2 := by
  rw [frac_eq, (rneNat_of_lt h).1]
  omega

theorem rne_natCast (n k : Nat) : rne n k = rneNat n k := by
  rw [rne, if_neg (by omega), Int.toNat_natCast]

theorem rne_of_neg {z : Int} (h : z < 0) (k : Nat) : rne z k = 0x80000000#32 ||| rneNat (-z).toNat k := if_pos h

/-- Setting a clear sign bit is flipping it. -/
theorem signBit_or_eq_xor {w : Word} (h : w.msb = false) : 0x80000000#32 ||| w = w ^^^ 0x80000000#32 := by
  have hsign : (0x80000000#32 : Word) = BitVec.twoPow 32 31 := rfl
  have hw : w.getLsbD 31 = false := by simpa [BitVec.msb_eq_getLsbD_last] using h
  rw [hsign]
  ext i hi
  rcases eq_or_ne i 31 with rfl | hne
  · simpa using hw
  · simp [hne]

theorem rneNat_zero (k : Nat) : rneNat 0 k = 0#32 := by
  simp [rneNat, ulpExp, roundShift]

theorem roundUnits_zero (k : Nat) : roundUnits 0 k = 0 := by
  simp [roundUnits, roundShift]

end Sys2Proof.Machine.F32

/-! ### Rounding -/

namespace Sys2Proof.Machine

open F32

/-- Settles O21: the spacing is that of the binade of the real, so the rounding shift finds the nearest number of the grid. -/
theorem roundingIsNearestEven : Obligations.RoundingIsNearestEven := by
  refine ⟨fun n k => ⟨?_, msb_rneNat n k, ?_, fun u hu p v hp => ?_⟩, fun z k hz => ?_, rne_natCast, fun k => ?_⟩
  · obtain ⟨-, h⟩ | ⟨-, h⟩ := value_rneNat_cases n k <;> rw [h] <;> nofun
  · obtain ⟨hn, h⟩ | ⟨hn, h⟩ := value_rneNat_cases n k <;> rw [h]
    · exact iff_of_true rfl hn
    · exact iff_of_false nofun (Nat.not_le.mpr hn)
  · obtain ⟨-, h⟩ | ⟨hn, h⟩ := value_rneNat_cases n k
    · cases hu.symm.trans h
    · cases hu.symm.trans h
      rw [frac_rneNat_mod_two hn]
      exact roundUnits_nearest n k (onGrid_of_value hp)
  · rw [rne_of_neg hz, signBit_or_eq_xor (msb_rneNat _ k), ← rne_natCast, Int.toNat_of_nonneg (by omega)]
  · exact (rne_natCast 0 k).trans (rneNat_zero k)

end Sys2Proof.Machine

/-! ### Saturating arithmetic -/

namespace Sys2Proof.Machine

open Sys2Proof.Safety

@[simp] theorem toNat_satadd (a b : Half) : (satadd a b).toNat = min (a.toNat + b.toNat) 65535 := by
  rw [satadd, BitVec.toNat_ofNat]
  omega

@[simp] theorem toNat_satsub (a b : Half) : (satsub a b).toNat = a.toNat - b.toNat := by
  have := a.isLt
  rw [satsub, BitVec.toNat_ofNat]
  omega

@[simp] theorem toNat_satmul (a b : Half) : (satmul a b).toNat = min (a.toNat * b.toNat) 65535 := by
  rw [satmul, BitVec.toNat_ofNat]
  omega

/-- Settles O19: the clipped results fit a channel value, and a truncated difference is one clipped at 0. -/
theorem saturatingPrimitives : Obligations.SaturatingPrimitives := by
  intro a b
  rw [toNat_satadd, toNat_satsub, toNat_satmul]
  push_cast
  omega

/-- A factor may be clipped before a product that is clipped: only a factor 0 brings the product back below the bound. -/
theorem min_mul_min (x c m : Nat) : min (min x m * c) m = min (x * c) m := by
  rcases Nat.eq_zero_or_pos c with rfl | hc
  · simp
  · rcases Nat.le_total x m with h | h
    · rw [min_eq_left h]
    · rw [min_eq_right h, min_eq_right (Nat.le_mul_of_pos_right m hc),
        min_eq_right (h.trans (Nat.le_mul_of_pos_right x hc))]

theorem satadd_comm (a b : Half) : satadd a b = satadd b a := by
  simp only [satadd, Nat.add_comm]

theorem satmul_comm (a b : Half) : satmul a b = satmul b a := by
  simp only [satmul, Nat.mul_comm]

theorem satadd_assoc (a b c : Half) : satadd (satadd a b) c = satadd a (satadd b c) := by
  apply BitVec.eq_of_toNat_eq
  simp only [toNat_satadd]
  omega

theorem satmul_assoc (a b c : Half) : satmul (satmul a b) c = satmul a (satmul b c) := by
  apply BitVec.eq_of_toNat_eq
  simp only [toNat_satmul]
  rw [min_mul_min, Nat.mul_comm a.toNat (min _ _), min_mul_min, Nat.mul_comm _ a.toNat, Nat.mul_assoc]

@[simp] theorem satadd_zero (a : Half) : satadd a 0#16 = a := by
  have := a.isLt
  apply BitVec.eq_of_toNat_eq
  rw [toNat_satadd, BitVec.toNat_ofNat]
  omega

@[simp] theorem zero_satadd (a : Half) : satadd 0#16 a = a := (satadd_comm _ _).trans (satadd_zero a)

theorem max_le_satadd (a b : Half) : max a.toNat b.toNat ≤ (satadd a b).toNat := by
  have := a.isLt
  have := b.isLt
  rw [toNat_satadd]
  omega

theorem satadd_eq_max_iff (a b : Half) : satadd a b = 65535#16 ↔ 65535 ≤ a.toNat + b.toNat := by
  rw [← BitVec.toNat_inj, toNat_satadd]
  simp

/-- R134: clipping at every node of a tree is clipping once. -/
theorem toNat_sumTree_eval (tree : SumTree) : tree.eval.toNat = min tree.total 65535 := by
  induction tree with
  | leaf v =>
    have := v.isLt
    simp only [SumTree.eval, SumTree.total]
    omega
  | node l r ihl ihr =>
    simp only [SumTree.eval, SumTree.total, toNat_satadd]
    omega

/-- Settles O20: trees by induction, the laws in `Z`, and two differences that do not regroup. -/
theorem saturatingSumsRegroup : Obligations.SaturatingSumsRegroup := by
  refine ⟨toNat_sumTree_eval, fun a b c => ⟨satadd_comm a b, satadd_assoc a b c, satmul_comm a b, satmul_assoc a b c⟩,
    fun a b => ?_, ⟨0#16, 1#16, by decide⟩, ⟨1#16, 1#16, 1#16, by decide⟩⟩
  have ha := a.isLt
  have hb := b.isLt
  have hmax := max_le_satadd a b
  simp only [← BitVec.toNat_inj, toNat_satadd, toNat_satsub, toNat_satmul, BitVec.toNat_ofNat] at hmax ⊢
  omega

end Sys2Proof.Machine

/-! ### Scaling -/

namespace Sys2Proof.Machine

open F32

section
variable {c : Half} {f : Word}

theorem scale1_of_nan (h : value f = .nan) : scale1 c f = 0#16 := by
  simp only [scale1, h]

theorem scale1_of_inf_neg (h : value f = .inf true) : scale1 c f = 0#16 := by
  simp [scale1, h]

theorem scale1_of_inf (h : value f = .inf false) (hc : c ≠ 0#16) : scale1 c f = 65535#16 := by
  simp [scale1, h, hc]

theorem scale1_of_nonpos {u : Int} (h : value f = .num u) (hu : u ≤ 0) : scale1 c f = 0#16 := by
  simp [scale1, h, hu]

@[simp] theorem scale1_zero (f : Word) : scale1 0#16 f = 0#16 := by
  simp only [scale1]
  split <;> simp

/-- R136 for a number: the rounded product, cut to whole numbers and clipped. A factor at most 0 has the natural number
0, and so a product 0. -/
theorem toNat_scale1 {u : Int} (h : value f = .num u) :
    (scale1 c f).toNat = min (roundUnits (c.toNat * u.toNat) 0 / 2 ^ 149) 65535 := by
  by_cases hu : u ≤ 0
  · simp [scale1_of_nonpos h hu, Int.toNat_eq_zero.mpr hu, roundUnits_zero]
  by_cases hc : c = 0#16
  · simp [hc, roundUnits_zero]
  simp only [scale1, h, if_neg hu, if_neg hc, one, Nat.shiftRight_eq_div_pow]
  split
  · next hp => exact (min_eq_right ((Nat.le_div_iff_mul_le (Nat.two_pow_pos 149)).mpr hp)).symm
  · rw [BitVec.toNat_ofNat]
    omega

theorem scale1_eq_max_iff {u : Int} (h : value f = .num u) :
    scale1 c f = 65535#16 ↔ 65535 * 2 ^ 149 ≤ roundUnits (c.toNat * u.toNat) 0 := by
  rw [← BitVec.toNat_inj, toNat_scale1 h, BitVec.toNat_ofNat]
  omega

theorem onGrid_half (c : Half) : OnGrid ((c.toNat * 2 ^ 149 : Nat) : Int) :=
  onGrid_mul_two_pow (c.isLt.trans (by decide)) 149

/-- A channel value is a binary32 number, so rounding does not bring a product below it. -/
theorem half_le_roundUnits {n : Nat} (h : c.toNat * 2 ^ 149 ≤ n) : c.toNat * 2 ^ 149 ≤ roundUnits n 0 := by
  exact_mod_cast le_roundUnits (onGrid_half c) (by rw [pow_zero, mul_one]; exact_mod_cast h)

/-- Nor does rounding lift a product above it. -/
theorem roundUnits_le_half {n : Nat} (h : n ≤ c.toNat * 2 ^ 149) : roundUnits n 0 ≤ c.toNat * 2 ^ 149 := by
  exact_mod_cast roundUnits_le (onGrid_half c) (by rw [pow_zero, mul_one]; exact_mod_cast h)

/-- R137 (d). -/
theorem scale1_eq_max {u : Int} (h : value f = .num u) (hle : 65535 * 2 ^ 149 ≤ c.toNat * u.toNat) :
    scale1 c f = 65535#16 :=
  (scale1_eq_max_iff h).mpr (half_le_roundUnits (c := 65535#16) hle)

/-- R137 (f). -/
theorem toNat_scale1_le {u : Int} (h : value f = .num u) (hu : u ≤ 2 ^ 149) : (scale1 c f).toNat ≤ c.toNat := by
  have := roundUnits_le_half (Nat.mul_le_mul_left c.toNat (show u.toNat ≤ 2 ^ 149 by omega))
  rw [toNat_scale1 h]
  omega

/-- R137 (a). -/
@[simp] theorem scale1_one (c : Half) : scale1 c 0x3F800000#32 = c := by
  have h : value 0x3F800000#32 = .num (2 ^ 149) := rfl
  have hle := half_le_roundUnits (le_refl (c.toNat * 2 ^ 149))
  have hge := toNat_scale1_le (c := c) h le_rfl
  apply BitVec.eq_of_toNat_eq
  have := c.isLt
  rw [toNat_scale1 h, show (2 ^ 149 : Int).toNat = 2 ^ 149 from rfl] at hge ⊢
  omega

@[simp] theorem scale1_by_zero (c : Half) : scale1 c 0x00000000#32 = 0#16 :=
  scale1_of_nonpos (u := 0) rfl le_rfl

end

/-- Settles O22, from what a scaled value is worth; an infinite rounded product is one past 65535. -/
theorem scaleFollowsItsRule : Obligations.ScaleFollowsItsRule := by
  refine fun c f => ⟨scale1_of_nan, scale1_of_inf_neg, fun u => scale1_of_nonpos, ?_, scale1_of_inf,
    fun u hf _ _ => ?_⟩
  · rintro rfl
    exact scale1_zero f
  obtain ⟨hn, hv⟩ | ⟨-, hv⟩ := value_rneNat_cases (c.toNat * u.toNat) 0 <;> rw [hv]
  · exact ⟨fun _ => scale1_eq_max hf (by omega), nofun⟩
  · refine ⟨nofun, ?_⟩
    rintro _ ⟨⟩
    refine ⟨fun hp => (scale1_eq_max_iff hf).mpr (by omega), fun hp => ?_⟩
    rw [toNat_scale1 hf]
    omega

/-- Settles O23: the operand and 65535 are binary32 numbers, and rounding is monotone against those. -/
theorem scaleHasTheRequiredProperties : Obligations.ScaleHasTheRequiredProperties := by
  refine fun c f => ⟨scale1_one c, ?_, Nat.le_of_lt_succ (scale1 c f).isLt, fun u hf hle => ?_, scale1_of_inf,
    scale1_zero f, fun u hf _ hu => toNat_scale1_le hf hu⟩
  · rintro (⟨u, hf, hu⟩ | hf)
    · exact scale1_of_nonpos hf hu
    · exact scale1_of_inf_neg hf
  · refine scale1_eq_max hf ?_
    have hu : 0 ≤ u := by
      by_contra hu
      have := Int.mul_nonpos_of_nonneg_of_nonpos (Int.natCast_nonneg c.toNat) (not_le.mp hu).le
      omega
    zify
    rwa [Int.toNat_of_nonneg hu]

/-! ### The clamp -/

open Sys2Proof.Safety

theorem clampT_of_num {t : Word} {u : Int} (h : value t = .num u) :
    clampT t = if u ≤ 0 then 0x00000000#32 else if 2 ^ 149 ≤ u then 0x3F800000#32 else t := by
  simp only [clampT, h]
  rfl

/-- Settles O24, by what the pattern stands for. -/
theorem clampToUnitRange : Obligations.ClampToUnitRange := by
  intro t
  unfold NanOrAtMostZero AtLeastOne
  cases h : value t with
  | nan => simp [clampT, h]
  | inf negative => cases negative <;> simp [clampT, h]
  | num u =>
    simp only [reduceCtorEq, false_or, Value.num.injEq, exists_eq_left', clampT_of_num h]
    refine ⟨fun hu => if_pos hu, fun hu => ?_, fun hlo hhi => ?_⟩
    · rw [if_neg (by omega), if_pos hu]
    · rw [if_neg hlo, if_neg hhi]

/-! ### Colour commands -/

theorem onlyC_setC_done (d : CReg) (v : Color) (s : State) : OnlyC d s (s.setC d v).done :=
  ⟨fun _ => s.getC_setC_ne d v, rfl, rfl, fun _ => rfl, rfl, rfl, rfl, rfl, rfl⟩

theorem onlyX_setX_done (d : XReg) (v : Word) (s : State) : OnlyX d s (s.setX d v).done :=
  ⟨fun _ => s.getX_setX_ne d v, rfl, rfl, fun _ => rfl, rfl, rfl, rfl, rfl, rfl⟩

section
variable (s : State) (d a b : CReg) (x : XReg)

theorem exec_cadd : exec (.cadd d a b) s = .next (s.setC d (lanes satadd (s.getC a) (s.getC b))).done := rfl
theorem exec_csub : exec (.csub d a b) s = .next (s.setC d (lanes satsub (s.getC a) (s.getC b))).done := rfl
theorem exec_cmul : exec (.cmul d a b) s = .next (s.setC d (lanes satmul (s.getC a) (s.getC b))).done := rfl
theorem exec_cscale : exec (.cscale d a x) s = .next (s.setC d (scaleColor (s.getC a) (s.getX x))).done := rfl
theorem exec_clerp :
    exec (.clerp d a b x) s = .next (s.setC d (lerpColor s.params (s.getC a) (s.getC b) (s.getX x))).done := rfl
theorem exec_ceq : exec (.ceq x a b) s = .next (s.setX x (eqWord (s.getC a) (s.getC b))).done := rfl

end

/-- Settles O25. -/
theorem addSubtractMultiply : Obligations.AddSubtractMultiply := fun s d a b =>
  ⟨⟨_, exec_cadd s d a b, rfl, onlyC_setC_done d _ s, s.getC_setC_self d _⟩,
    ⟨_, exec_csub s d a b, rfl, onlyC_setC_done d _ s, s.getC_setC_self d _⟩,
    ⟨_, exec_cmul s d a b, rfl, onlyC_setC_done d _ s, s.getC_setC_self d _⟩⟩

/-- Settles O26. -/
theorem scaleCommand : Obligations.ScaleCommand := fun s d a f =>
  ⟨_, exec_cscale s d a f, rfl, onlyC_setC_done d _ s, s.getC_setC_self d _⟩

theorem lerpWeights_b {p : Config.Params} (h : p.lerp = .tWeightsB) (t : Word) :
    lerpWeights p t = (rne (2 ^ 149 - units (clampT t)) 0, clampT t) := by
  simp only [lerpWeights, h]
  rfl

theorem lerpWeights_a {p : Config.Params} (h : p.lerp = .tWeightsA) (t : Word) :
    lerpWeights p t = (clampT t, rne (2 ^ 149 - units (clampT t)) 0) := by
  simp only [lerpWeights, h]
  rfl

theorem get_lerpColor (p : Config.Params) (a b : Color) (t : Word) (ch : Chan) :
    (lerpColor p a b t).get ch =
      satadd (scale1 (a.get ch) (lerpWeights p t).1) (scale1 (b.get ch) (lerpWeights p t).2) := by
  cases ch <;> rfl

/-- Settles O27, weighting by weighting. -/
theorem interpolateCommand : Obligations.InterpolateCommand := by
  intro s d a b x
  refine ⟨_, exec_clerp s d a b x, rfl, onlyC_setC_done d _ s, ?_⟩
  rintro tc u wa wb rfl rfl hb ha ch
  rw [State.getC_done, State.getC_setC_self, get_lerpColor]
  cases h : s.params.lerp with
  | tWeightsB =>
    obtain ⟨rfl, rfl⟩ := hb h
    rw [lerpWeights_b h]
  | tWeightsA =>
    obtain ⟨rfl, rfl⟩ := ha h
    rw [lerpWeights_a h]

theorem eqWord_eq (a b : Color) : eqWord a b = if a = b then 1#32 else 0#32 := by
  cases a
  cases b
  simp only [eqWord, Color.mk.injEq]

/-- Settles O29. -/
theorem compareCommand : Obligations.CompareCommand := by
  refine fun s d a b => ⟨_, exec_ceq s a b d, rfl, onlyX_setX_done d _ s, fun h => ?_, fun h => ?_⟩ <;>
    rw [State.getX_done, State.getX_setX_self, eqWord_eq]
  · exact if_pos h
  · exact if_neg h

/-! ### End points -/

theorem scaleColor_one (v : Color) : scaleColor v 0x3F800000#32 = v := by
  simp [scaleColor]

/-- R155 (a): a factor with which every channel scales to 0. -/
theorem scaleColor_eq_black {f : Word} (h : ∀ c, scale1 c f = 0#16) (v : Color) :
    scaleColor v f = ⟨0#16, 0#16, 0#16⟩ := by
  simp [scaleColor, h]

theorem lanes_satadd_black (v : Color) : lanes satadd v ⟨0#16, 0#16, 0#16⟩ = v := by
  simp [lanes]

theorem lanes_black_satadd (v : Color) : lanes satadd ⟨0#16, 0#16, 0#16⟩ v = v := by
  simp [lanes]

/-- R155 (b): weights 1.0 and 0.0. -/
theorem lerpColor_of_weights_one_zero {p : Config.Params} {t : Word} (h : lerpWeights p t = (0x3F800000#32, 0#32))
    (a b : Color) : lerpColor p a b t = a := by
  rw [lerpColor, h, scaleColor_one, scaleColor_eq_black scale1_by_zero, lanes_satadd_black]

/-- R155 (b): weights 0.0 and 1.0. -/
theorem lerpColor_of_weights_zero_one {p : Config.Params} {t : Word} (h : lerpWeights p t = (0#32, 0x3F800000#32))
    (a b : Color) : lerpColor p a b t = b := by
  rw [lerpColor, h, scaleColor_one, scaleColor_eq_black scale1_by_zero, lanes_black_satadd]

theorem clampT_zero : clampT 0x00000000#32 = 0x00000000#32 := rfl
theorem clampT_one : clampT 0x3F800000#32 = 0x3F800000#32 := rfl
theorem rne_one_sub_clampT_zero : rne (2 ^ 149 - units (clampT 0x00000000#32)) 0 = 0x3F800000#32 := by decide
theorem rne_one_sub_clampT_one : rne (2 ^ 149 - units (clampT 0x3F800000#32)) 0 = 0x00000000#32 := by decide

/-- Settles O28: at either end point one weight is 1.0 and the other 0.0, and both scale exactly. -/
theorem scaleAndInterpolationEndpoints : Obligations.ScaleAndInterpolationEndpoints := by
  refine ⟨fun s d a f => ⟨_, exec_cscale s d a f, ?_⟩, fun s d a b x => ⟨_, exec_clerp s d a b x, ?_⟩,
    fun a b => ⟨max_le_satadd a b, satadd_eq_max_iff a b⟩⟩ <;> rw [State.getC_done, State.getC_setC_self]
  · refine ⟨fun hf => hf ▸ scaleColor_one _, fun hf => scaleColor_eq_black (fun c => ?_) _⟩
    obtain hf | hf | ⟨u, hf, hu⟩ := hf
    · exact hf ▸ scale1_by_zero c
    · exact scale1_of_inf_neg hf
    · exact scale1_of_nonpos hf hu.le
  · refine ⟨fun h => ⟨fun hx => ?_, fun hx => ?_⟩, fun h => ⟨fun hx => ?_, fun hx => ?_⟩⟩
    · refine lerpColor_of_weights_one_zero ?_ _ _
      rw [lerpWeights_b h, hx, rne_one_sub_clampT_zero, clampT_zero]
    · refine lerpColor_of_weights_zero_one ?_ _ _
      rw [lerpWeights_b h, hx, rne_one_sub_clampT_one, clampT_one]
    · refine lerpColor_of_weights_zero_one ?_ _ _
      rw [lerpWeights_a h, hx, rne_one_sub_clampT_zero, clampT_zero]
    · refine lerpColor_of_weights_one_zero ?_ _ _
      rw [lerpWeights_a h, hx, rne_one_sub_clampT_one, clampT_one]

end Sys2Proof.Machine

/-! ### Addressing and edge handling -/

namespace Sys2Proof.Machine

open Sys2Proof.Safety

section
variable {cx cy ox oy sx sy : Int}

theorem inAxis_iff {v size : Int} : inAxis v size = true ↔ 0 ≤ v ∧ v < size := by
  simp [inAxis]

theorem coordIn_of_inside (h : 0 ≤ cx ∧ cx < sx ∧ 0 ≤ cy ∧ cy < sy) : coordIn cx cy sx sy = .coord cx cy := by
  simp [coordIn, inAxis_iff, h]

theorem coordIn_of_not_inside (h : ¬ (0 ≤ cx ∧ cx < sx ∧ 0 ≤ cy ∧ cy < sy)) :
    coordIn cx cy sx sy = .fault .edgeRange := by
  simpa [coordIn, inAxis_iff, and_assoc] using h

variable (p : Config.Params) (policy : Policy) (fx fy : Int)

theorem resolve_of_both_out (hx : ¬ (0 ≤ ox ∧ ox < sx)) (hy : ¬ (0 ≤ oy ∧ oy < sy)) :
    resolve p policy ox oy fx fy sx sy = .fault .edgeTwoAxis := by
  simp [resolve, Bool.eq_false_iff.mpr (mt inAxis_iff.mp hx), Bool.eq_false_iff.mpr (mt inAxis_iff.mp hy)]

theorem resolve_of_both_in (hx : 0 ≤ ox ∧ ox < sx) (hy : 0 ≤ oy ∧ oy < sy) :
    resolve p policy ox oy fx fy sx sy = .coord ox oy := by
  simp [resolve, inAxis_iff.mpr hx, inAxis_iff.mpr hy]

/-- With exactly one coordinate out of range the policy decides (R177-R181). -/
theorem resolve_of_one_out (h : 0 ≤ ox ∧ ox < sx ↔ ¬ (0 ≤ oy ∧ oy < sy)) :
    resolve p .black ox oy fx fy sx sy = .value p.edgeBlack ∧
      resolve p .copy ox oy fx fy sx sy = coordIn fx fy sx sy ∧
      resolve p .wrap ox oy fx fy sx sy = coordIn (wrap1 ox sx) (wrap1 oy sy) sx sy ∧
      resolve p .reflect ox oy fx fy sx sy = coordIn (refl1 ox sx) (refl1 oy sy) sx sy := by
  rw [← inAxis_iff, ← inAxis_iff] at h
  have hne : inAxis ox sx = !inAxis oy sy := by
    rw [Bool.eq_iff_iff, h]
    simp
  simp [resolve, hne]

/-- Settles O38, by how many coordinates are out of range. -/
theorem resolveFollowsItsRule : Obligations.ResolveFollowsItsRule := by
  intro p policy ox oy fx fy sx sy
  refine ⟨resolve_of_both_out p policy fx fy, resolve_of_both_in p policy fx fy, fun hone => ?_⟩
  obtain ⟨hblack, hcopy, hwrap, hreflect⟩ := resolve_of_one_out p fx fy hone
  rw [hcopy, hwrap, hreflect]
  exact ⟨hblack, coordIn_of_inside, coordIn_of_not_inside, coordIn_of_inside, coordIn_of_not_inside, coordIn_of_inside,
    coordIn_of_not_inside⟩

/-! ### The folds -/

/-- R177: one fold by the size, so it reaches one size beyond either edge. -/
theorem wrap1_inside_iff {v size : Int} :
    (0 ≤ wrap1 v size ∧ wrap1 v size < size) ↔ (-size ≤ v ∧ v < 2 * size) := by
  unfold wrap1
  split
  · omega
  · split <;> omega

/-- R178: one reflection, with the same reach. -/
theorem refl1_inside_iff {v size : Int} :
    (0 ≤ refl1 v size ∧ refl1 v size < size) ↔ (-size ≤ v ∧ v < 2 * size) := by
  unfold refl1
  split
  · omega
  · split <;> omega

/-- A coordinate out of the folds' reach, on either axis, leaves no coordinate to read. -/
theorem resolve_of_out_of_reach (hp : policy = .wrap ∨ policy = .reflect)
    (hone : 0 ≤ ox ∧ ox < sx ↔ ¬ (0 ≤ oy ∧ oy < sy))
    (hfar : ¬ (-sx ≤ ox ∧ ox < 2 * sx) ∨ ¬ (-sy ≤ oy ∧ oy < 2 * sy)) :
    resolve p policy ox oy fx fy sx sy = .fault .edgeRange := by
  obtain ⟨-, -, hwrap, hreflect⟩ := resolve_of_one_out p fx fy hone
  obtain rfl | rfl := hp
  · rw [hwrap]
    rw [← wrap1_inside_iff, ← wrap1_inside_iff] at hfar
    exact coordIn_of_not_inside (by tauto)
  · rw [hreflect]
    rw [← refl1_inside_iff, ← refl1_inside_iff] at hfar
    exact coordIn_of_not_inside (by tauto)

end

/-- Settles O37, by the reach of the folds. -/
theorem foldsLandInRangeExactly : Obligations.FoldsLandInRangeExactly := by
  intro v size hsize
  refine ⟨⟨fun h => ?_, fun h => ?_, fun h h0 => ?_⟩, wrap1_inside_iff, refl1_inside_iff,
    fun p policy o other fx fy hp ho hfar => ?_⟩
  · simp [wrap1, refl1, h.1.not_gt, h.2.not_ge]
  · simp [wrap1, refl1, h]
  · simp [wrap1, refl1, h, h0.not_gt]
  · have hout : ¬ (0 ≤ v ∧ v < size) := by omega
    exact ⟨resolve_of_out_of_reach p policy fx fy hp (by tauto) (.inl hfar),
      resolve_of_out_of_reach p policy fx fy hp (by tauto) (.inr hfar)⟩

/-! ### INDEX -/

theorem exec_index_of_lt {s : State} {d n col ring : XReg} (h : 0 ≤ s.sx ring ∧ s.sx ring < s.sx n) :
    exec (.index d n col ring) s =
      .next (s.setX d (BitVec.ofInt 32 (pixIndex (s.sx n) (s.sx col) (s.sx ring)))).done := if_pos h

theorem exec_index_of_not_lt {s : State} {d n col ring : XReg} (h : ¬ (0 ≤ s.sx ring ∧ s.sx ring < s.sx n)) :
    exec (.index d n col ring) s = .next (s.raise .ringRange) := if_neg h

/-- The low 32 bits of an integer (R174). -/
theorem natCast_toNat_ofInt (z : Int) : ((BitVec.ofInt 32 z).toNat : Int) = z % 2 ^ 32 := by
  rw [BitVec.toNat_ofInt]
  exact Int.toNat_of_nonneg (Int.emod_nonneg z (by decide))

/-- Settles O36. -/
theorem indexCommand : Obligations.IndexCommand := by
  refine fun s d n col ring => ⟨fun h => ?_, fun h => ⟨_, exec_index_of_not_lt h, faultOf_raise s .ringRange⟩⟩
  refine ⟨_, exec_index_of_lt h, rfl, onlyX_setX_done d _ s, ?_⟩
  rw [State.getX_done, State.getX_setX_self]
  exact natCast_toNat_ofInt _

/-! ### EDGE -/

theorem toNat_mod_four (e : Word) : e.toNat % 4 = (e.extractLsb' 0 2).toNat := by
  simp

/-- R31. -/
theorem policyOf_of_low_bits (e : Word) :
    (e.extractLsb' 0 2 = 0#2 → policyOf e = .wrap) ∧ (e.extractLsb' 0 2 = 1#2 → policyOf e = .reflect) ∧
      (e.extractLsb' 0 2 = 2#2 → policyOf e = .copy) ∧ (e.extractLsb' 0 2 = 3#2 → policyOf e = .black) := by
  simp only [policyOf, toNat_mod_four]
  refine ⟨?_, ?_, ?_, ?_⟩ <;> intro h <;> rw [h] <;> rfl

/-- What `resolve` may answer (R176): one of its two faults, a value, or a coordinate inside the image. -/
inductive Resolved.Sound (sx sy : Int) : Resolved → Prop
  | twoAxis : Sound sx sy (.fault .edgeTwoAxis)
  | range : Sound sx sy (.fault .edgeRange)
  | value (v : Half) : Sound sx sy (.value v)
  | coord {cx cy : Int} (hx : 0 ≤ cx ∧ cx < sx) (hy : 0 ≤ cy ∧ cy < sy) : Sound sx sy (.coord cx cy)

theorem coordIn_sound (cx cy sx sy : Int) : (coordIn cx cy sx sy).Sound sx sy := by
  by_cases h : 0 ≤ cx ∧ cx < sx ∧ 0 ≤ cy ∧ cy < sy
  · rw [coordIn_of_inside h]
    obtain ⟨hx0, hx, hy⟩ := h
    exact .coord ⟨hx0, hx⟩ hy
  · rw [coordIn_of_not_inside h]
    exact .range

theorem resolve_sound (p : Config.Params) (policy : Policy) (ox oy fx fy sx sy : Int) :
    (resolve p policy ox oy fx fy sx sy).Sound sx sy := by
  by_cases hone : 0 ≤ ox ∧ ox < sx ↔ ¬ (0 ≤ oy ∧ oy < sy)
  · obtain ⟨hblack, hcopy, hwrap, hreflect⟩ := resolve_of_one_out p fx fy hone
    cases policy with
    | black => exact hblack ▸ .value _
    | copy => exact hcopy ▸ coordIn_sound ..
    | wrap => exact hwrap ▸ coordIn_sound ..
    | reflect => exact hreflect ▸ coordIn_sound ..
  · by_cases hx : 0 ≤ ox ∧ ox < sx
    · have hy : 0 ≤ oy ∧ oy < sy := by tauto
      exact resolve_of_both_in p policy fx fy hx hy ▸ .coord hx hy
    · have hy : ¬ (0 ≤ oy ∧ oy < sy) := by tauto
      exact resolve_of_both_out p policy fx fy hx hy ▸ .twoAxis

/-- What EDGE resolves: its four signed operands under `CR.EDGE`, `SIZEX` and `SIZEY` (R182). -/
def State.edgeResolved (s : State) (ox oy fx fy : XReg) : Resolved :=
  resolve s.params (policyOf s.ctl.edge) (s.sx ox) (s.sx oy) (s.sx fx) (s.sx fy) s.ctl.sizeX.toNat s.ctl.sizeY.toNat

section
variable {s : State} {d ox oy fx fy : XReg} {ch : Chan}

theorem exec_edge_of_fault {c : Cause} (h : s.edgeResolved ox oy fx fy = .fault c) :
    exec (.edge d ox oy fx fy ch) s = .next (s.raise c) := by
  rw [State.edgeResolved] at h
  simp only [exec, execEdge, h]

theorem exec_edge_of_value {v : Half} (h : s.edgeResolved ox oy fx fy = .value v) :
    exec (.edge d ox oy fx fy ch) s = .next (s.setX d (v.zeroExtend 32)).done := by
  rw [State.edgeResolved] at h
  simp only [exec, execEdge, h]

theorem exec_edge_of_coord {cx cy : Int} (h : s.edgeResolved ox oy fx fy = .coord cx cy) {addr : Nat}
    (ha : addr = sampleAddr s.srcAddr s.ctl.sizeY.toNat cx.toNat cy.toNat (chanNum ch)) :
    exec (.edge d ox oy fx fy ch) s =
      if addr < s.params.memSize then .next (s.setX d ((s.halfAt addr).zeroExtend 32)).done
      else .next (s.raise .memRange) := by
  rw [State.edgeResolved] at h
  simp only [exec, execEdge, h, ha]

end

/-- The address in `Z` of the sample of a coordinate that is in range (R172, R173). -/
theorem natCast_sampleAddr (base sizeY ch : Nat) {cx cy : Int} (hx : 0 ≤ cx) (hy : 0 ≤ cy) :
    (sampleAddr base sizeY cx.toNat cy.toNat ch : Int) = base + 3 * (cx * sizeY + cy) + ch := by
  simp [sampleAddr, hx, hy]

/-- Settles O39, by what `resolve` can answer. -/
theorem edgeFetchesTheSample : Obligations.EdgeFetchesTheSample := by
  refine ⟨policyOf_of_low_bits, ⟨rfl, rfl, rfl⟩, fun s d ox oy fx fy ch r hr => ?_⟩
  obtain rfl : r = s.edgeResolved ox oy fx fy := hr
  have hsound : (s.edgeResolved ox oy fx fy).Sound s.ctl.sizeX.toNat s.ctl.sizeY.toNat := resolve_sound ..
  refine ⟨fun h => ⟨_, exec_edge_of_fault h, faultOf_raise s .edgeTwoAxis⟩,
    fun h => ⟨_, exec_edge_of_fault h, faultOf_raise s .edgeRange⟩, fun c h => ?_,
    fun v h => ⟨_, exec_edge_of_value h, rfl, onlyX_setX_done d _ s, s.getX_setX_self d _⟩, fun cx cy h => ?_⟩
  · rw [h] at hsound
    cases hsound with
    | twoAxis => exact .inl rfl
    | range => exact .inr rfl
  · rw [h] at hsound
    obtain ⟨hx, hy⟩ : 0 ≤ cx ∧ 0 ≤ cy := by
      cases hsound with
      | coord hx hy => exact ⟨hx.1, hy.1⟩
    refine ⟨_, natCast_sampleAddr _ _ _ hx hy, fun ha => ?_, fun ha => ?_⟩
    · exact ⟨_, (exec_edge_of_coord h rfl).trans (if_pos ha), rfl, onlyX_setX_done d _ s, s.getX_setX_self d _⟩
    · exact ⟨_, (exec_edge_of_coord h rfl).trans (if_neg ha.not_gt), faultOf_raise s .memRange⟩

end Sys2Proof.Machine

/-! ### One tap of a pass

A tap moves along one axis only, so what `resolve` answers is a question about that axis: which of its pixels is read. -/

namespace Sys2Proof.Machine

open Sys2Proof.Safety

/-- The pixel that the tap at coordinate `o` reads on an axis of `size` pixels, or none where the Black value stands in
(R177-R181); `here` is the pixel being computed. -/
def tapCoord (policy : Policy) (size here : Nat) (o : Int) : Option Nat :=
  if 0 ≤ o ∧ o < size then some o.toNat
  else
    match policy with
    | .black => none
    | .copy => some here
    | .wrap => some (wrap1 o size).toNat
    | .reflect => some (refl1 o size).toNat

/-- Where the policy folds, one fold brings `o` back onto an axis of `size` pixels (R177, R178). -/
def FoldsReach (policy : Policy) (size : Nat) (o : Int) : Prop :=
  policy = .wrap ∨ policy = .reflect → -(size : Int) ≤ o ∧ o < 2 * size

/-- A coordinate resolved on the other axis. -/
def Resolved.swap : Resolved → Resolved
  | .coord cx cy => .coord cy cx
  | .value v => .value v
  | .fault c => .fault c

theorem Resolved.swap_eq_fault_iff {r : Resolved} {c : Cause} : r.swap = .fault c ↔ r = .fault c := by
  cases r <;> simp [Resolved.swap]

theorem coordIn_swap (cx cy sx sy : Int) : coordIn cy cx sy sx = (coordIn cx cy sx sy).swap := by
  simp only [coordIn, Bool.and_comm (inAxis cy sy)]
  split <;> rfl

/-- `resolve` treats the two axes alike. -/
theorem resolve_swap (p : Config.Params) (policy : Policy) (ox oy fx fy sx sy : Int) :
    resolve p policy oy ox fy fx sy sx = (resolve p policy ox oy fx fy sx sy).swap := by
  simp only [resolve, Bool.and_comm (inAxis oy sy), Bool.and_comm (!inAxis oy sy)]
  split
  · rfl
  · split
    · rfl
    · cases policy with
      | black => rfl
      | copy => exact coordIn_swap fx fy sx sy
      | wrap => exact coordIn_swap (wrap1 ox sx) (wrap1 oy sy) sx sy
      | reflect => exact coordIn_swap (refl1 ox sx) (refl1 oy sy) sx sy

section
variable {policy : Policy} {size here : Nat} {o : Int}

theorem tapCoord_lt (hh : here < size) (hr : FoldsReach policy size o) {i : Nat}
    (h : tapCoord policy size here o = some i) : i < size := by
  unfold tapCoord at h
  split at h
  · cases h
    omega
  · cases policy with
    | black => cases h
    | copy =>
      cases h
      exact hh
    | wrap =>
      cases h
      have := wrap1_inside_iff.mpr (hr (.inl rfl))
      omega
    | reflect =>
      cases h
      have := refl1_inside_iff.mpr (hr (.inr rfl))
      omega

theorem refSample_of_inside (p : Config.Params) (policy : Policy) {size : Nat} (here : Nat) {o : Int} (at_ : Nat → Half)
    (h : 0 ≤ o ∧ o < size) : refSample p policy size here o at_ = at_ o.toNat := if_pos h

/-- The closed form of a sample reads the same pixel. -/
theorem refSample_eq (p : Config.Params) (policy : Policy) (size here : Nat) (o : Int) (at_ : Nat → Half) :
    refSample p policy size here o at_ = (tapCoord policy size here o).elim p.edgeBlack at_ := by
  unfold refSample tapCoord
  split
  · rfl
  · next ho =>
    cases policy with
    | black | copy => rfl
    | wrap =>
      have : wrap1 o size = if o < 0 then o + size else o - size := by
        unfold wrap1
        split_ifs <;> omega
      rw [this]
      rfl
    | reflect =>
      have : refl1 o size = if o < 0 then -o - 1 else 2 * size - o - 1 := by
        unfold refl1
        split_ifs <;> omega
      rw [this]
      rfl

theorem refSample_congr (p : Config.Params) {a b : Nat → Half} (hh : here < size) (hr : FoldsReach policy size o)
    (hab : ∀ i < size, a i = b i) : refSample p policy size here o a = refSample p policy size here o b := by
  rw [refSample_eq, refSample_eq]
  cases h : tapCoord policy size here o with
  | none => rfl
  | some i => exact hab i (tapCoord_lt hh hr h)

end

section
variable (p : Config.Params) {policy : Policy} {x y sx sy : Nat} {o : Int}

/-- A tap of an X pass (R202), the folds reaching. -/
theorem resolve_of_x_tap (hx : x < sx) (hy : y < sy) (hr : FoldsReach policy sx o) :
    resolve p policy o y x y sx sy =
      (tapCoord policy sx x o).elim (.value p.edgeBlack) fun i => .coord (i : Nat) y := by
  have hyin : 0 ≤ (y : Int) ∧ (y : Int) < sy := by omega
  unfold tapCoord
  split
  · next ho => simp [resolve_of_both_in p policy x y ho hyin, ho.1]
  · next ho =>
    obtain ⟨hblack, hcopy, hwrap, hreflect⟩ := resolve_of_one_out p x y (iff_of_false ho (not_not_intro hyin))
    have hwy : wrap1 y sy = y := by simp [wrap1, hyin.1.not_gt, hyin.2.not_ge]
    have hry : refl1 y sy = y := by simp [refl1, hyin.1.not_gt, hyin.2.not_ge]
    cases policy with
    | black => exact hblack
    | copy => exact hcopy.trans (coordIn_of_inside (by omega))
    | wrap =>
      have hin := wrap1_inside_iff.mpr (hr (.inl rfl))
      rw [hwrap, hwy, coordIn_of_inside ⟨hin.1, hin.2, hyin⟩, Option.elim_some, Int.toNat_of_nonneg hin.1]
    | reflect =>
      have hin := refl1_inside_iff.mpr (hr (.inr rfl))
      rw [hreflect, hry, coordIn_of_inside ⟨hin.1, hin.2, hyin⟩, Option.elim_some, Int.toNat_of_nonneg hin.1]

/-- A tap of a Y pass is a tap of an X pass with the axes exchanged. -/
theorem resolve_of_y_tap (hx : x < sx) (hy : y < sy) (hr : FoldsReach policy sy o) :
    resolve p policy x o x y sx sy =
      (tapCoord policy sy y o).elim (.value p.edgeBlack) fun i => .coord x (i : Nat) := by
  rw [resolve_swap, resolve_of_x_tap p hy hx hr]
  cases tapCoord policy sy y o <;> rfl

/-- R207: a tap of an X pass raises `EDGE_RANGE` exactly when its fold misses the axis. -/
theorem resolve_x_tap_eq_edgeRange_iff (hx : x < sx) (hy : y < sy) :
    resolve p policy o y x y sx sy = .fault .edgeRange ↔ ¬ FoldsReach policy sx o := by
  by_cases hr : FoldsReach policy sx o
  · rw [resolve_of_x_tap p hx hy hr]
    cases tapCoord policy sx x o <;> simp [hr]
  · refine iff_of_true ?_ hr
    obtain ⟨hp, hfar⟩ := Classical.not_imp.mp hr
    exact resolve_of_out_of_reach p policy x y hp (by omega) (.inl hfar)

theorem resolve_y_tap_eq_edgeRange_iff (hx : x < sx) (hy : y < sy) :
    resolve p policy x o x y sx sy = .fault .edgeRange ↔ ¬ FoldsReach policy sy o := by
  rw [resolve_swap, Resolved.swap_eq_fault_iff, resolve_x_tap_eq_edgeRange_iff p hy hx]

end

/-! ### The radius of a kernel -/

/-- R207: where the policy folds, the radius of a kernel of `len` taps is at most the size of its axis. -/
def RadiusFits (policy : Policy) (size len : Nat) : Prop :=
  policy = .wrap ∨ policy = .reflect → len / 2 ≤ size

theorem not_radiusFits_iff {policy : Policy} {size len : Nat} :
    ¬ RadiusFits policy size len ↔ (policy = .wrap ∨ policy = .reflect) ∧ size < len / 2 := by
  rw [RadiusFits, Classical.not_imp, Nat.not_le]

/-- The check of R207 asks this of both axes. -/
theorem radiusTooLarge_eq_false_iff (u : ConvSetup) :
    radiusTooLarge u = false ↔
      RadiusFits u.policy u.sizeX u.kx.length ∧ RadiusFits u.policy u.sizeY u.ky.length := by
  unfold radiusTooLarge RadiusFits
  cases u.policy <;> simp

theorem radiusTooLarge_iff (u : ConvSetup) :
    radiusTooLarge u = true ↔
      (u.policy = .wrap ∨ u.policy = .reflect) ∧ (u.sizeX < u.kx.length / 2 ∨ u.sizeY < u.ky.length / 2) := by
  rw [← Bool.not_eq_false, radiusTooLarge_eq_false_iff, not_and_or, not_radiusFits_iff, not_radiusFits_iff, and_or_left]

section
variable {policy : Policy} {size len : Nat}

/-- Under a radius that fits no tap leaves the reach of the folds. -/
theorem RadiusFits.foldsReach (h : RadiusFits policy size len) {here i : Nat} (hh : here < size) (hi : i < len) :
    FoldsReach policy size (here + tapOffset len i) := by
  intro hp
  have := h hp
  unfold tapOffset
  omega

/-- R207: some tap at some pixel leaves their reach exactly when the radius does not fit; at pixel 0 it is the first. -/
theorem exists_not_foldsReach_iff (hs : 0 < size) :
    (∃ here < size, ∃ i < len, ¬ FoldsReach policy size (here + tapOffset len i)) ↔ ¬ RadiusFits policy size len := by
  refine ⟨fun ⟨here, hh, i, hi, hn⟩ hf => hn (hf.foldsReach hh hi), fun hf => ?_⟩
  obtain ⟨hp, hlt⟩ := not_radiusFits_iff.mp hf
  refine ⟨0, hs, 0, by omega, fun hr => ?_⟩
  have := hr hp
  unfold tapOffset at this
  omega

end

/-! ### The passes -/

section
variable (p : Config.Params) (u : ConvSetup)

/-- R203: clipping after every tap is clipping the whole sum once. -/
theorem tapSum_eq (axis : Axis) (img : Image) (x y ch len : Nat) (ks : List Word) :
    ∀ (i : Nat) (acc : Half) (v : Nat → Half),
      (∀ j < ks.length, tapSample p u axis img x y ch (tapOffset len (i + j)) = .ok (v j)) →
      tapSum p u axis img x y ch len i ks acc = .ok (BitVec.ofNat 16 (min (acc.toNat +
        ((List.range ks.length).map fun j => (scale1 (v j) (ks.getD j 0#32)).toNat).sum) 65535)) := by
  induction ks with
  | nil =>
    intro i acc v _
    have := acc.isLt
    simp only [tapSum, List.length_nil, List.range_zero, List.map_nil, List.sum_nil, Nat.add_zero]
    rw [min_eq_left (by omega), BitVec.ofNat_toNat, BitVec.setWidth_eq]
  | cons k ks ih =>
    intro i acc v h
    have hhead : tapSample p u axis img x y ch (tapOffset len i) = .ok (v 0) := h 0 (Nat.succ_pos _)
    have htail := ih (i + 1) (satadd acc (scale1 (v 0) k)) (fun j => v (j + 1)) fun j hj => by
      rw [Nat.add_right_comm]
      exact h (j + 1) (Nat.succ_lt_succ hj)
    rw [tapSum, hhead]
    simp only [htail, toNat_satadd, List.length_cons, List.range_succ_eq_map, List.map_cons, List.map_map, List.sum_cons,
      Function.comp_def, List.getD_cons_zero, List.getD_cons_succ, Nat.succ_eq_add_one]
    congr 2
    omega

variable {u} {x y ch : Nat} {img : Image} {at_ : Nat → Half} {k : List Word}

theorem tapSample_x (hx : x < u.sizeX) (hy : y < u.sizeY) (himg : ∀ i < u.sizeX, img i y ch = .ok (at_ i)) {off : Int}
    (hr : FoldsReach u.policy u.sizeX (x + off)) :
    tapSample p u .x img x y ch off = .ok (refSample p u.policy u.sizeX x (x + off) at_) := by
  simp only [tapSample, resolve_of_x_tap p hx hy hr, refSample_eq]
  cases h : tapCoord u.policy u.sizeX x (x + off) with
  | none => rfl
  | some i => exact himg i (tapCoord_lt hx hr h)

theorem tapSample_y (hx : x < u.sizeX) (hy : y < u.sizeY) (himg : ∀ i < u.sizeY, img x i ch = .ok (at_ i)) {off : Int}
    (hr : FoldsReach u.policy u.sizeY (y + off)) :
    tapSample p u .y img x y ch off = .ok (refSample p u.policy u.sizeY y (y + off) at_) := by
  simp only [tapSample, resolve_of_y_tap p hx hy hr, refSample_eq]
  cases h : tapCoord u.policy u.sizeY y (y + off) with
  | none => rfl
  | some i => exact himg i (tapCoord_lt hy hr h)

/-- A pass whose samples are known is the sum of its contributions in `Z`, clipped. -/
theorem pass_eq (axis : Axis) {size here : Nat}
    (h : ∀ i < k.length, tapSample p u axis img x y ch (tapOffset k.length i) =
      .ok (refSample p u.policy size here (here + tapOffset k.length i) at_)) :
    pass p u axis k img x y ch = .ok (refSum p u.policy size here k.length (fun i => k.getD i 0#32) at_) := by
  have hsum := tapSum_eq p u axis img x y ch k.length k 0 0#16 _ fun i hi => by
    rw [Nat.zero_add]
    exact h i hi
  rw [BitVec.toNat_ofNat, Nat.zero_mod, Nat.zero_add] at hsum
  exact hsum

theorem pass_x (hx : x < u.sizeX) (hy : y < u.sizeY) (hr : RadiusFits u.policy u.sizeX k.length)
    (himg : ∀ i < u.sizeX, img i y ch = .ok (at_ i)) :
    pass p u .x k img x y ch = .ok (refSum p u.policy u.sizeX x k.length (fun i => k.getD i 0#32) at_) :=
  pass_eq p .x fun _ hi => tapSample_x p hx hy himg (hr.foldsReach hx hi)

theorem pass_y (hx : x < u.sizeX) (hy : y < u.sizeY) (hr : RadiusFits u.policy u.sizeY k.length)
    (himg : ∀ i < u.sizeY, img x i ch = .ok (at_ i)) :
    pass p u .y k img x y ch = .ok (refSum p u.policy u.sizeY y k.length (fun i => k.getD i 0#32) at_) :=
  pass_eq p .y fun _ hi => tapSample_y p hx hy himg (hr.foldsReach hy hi)

end

/-- Settles O41, pass by pass; under `COMPOSE` the Y pass reads column `x` of the intermediate image only. -/
theorem passesAreClippedSums : Obligations.PassesAreClippedSums := by
  intro p u img x y ch hr hx hy
  obtain ⟨hrx, hry⟩ := (radiusTooLarge_eq_false_iff u).mp hr
  unfold convImage refConv
  cases p.combine with
  | compose => exact pass_y p hx hy hry fun y' hy' => pass_x p hx hy' hrx fun _ _ => rfl
  | sum =>
    have hpx := pass_x p (img := fun x' y' ch' => .ok (img x' y' ch')) (ch := ch) hx hy hrx fun _ _ => rfl
    have hpy := pass_y p (img := fun x' y' ch' => .ok (img x' y' ch')) (ch := ch) hx hy hry fun _ _ => rfl
    simp only [sumImages, hpx, hpy]

/-! ### What the closed form depends on -/

section
variable (p : Config.Params) {policy : Policy}

theorem refSum_congr {size here len : Nat} {k k' : Nat → Word} {a b : Nat → Half} (hh : here < size)
    (hr : RadiusFits policy size len) (hk : ∀ i < len, k i = k' i) (hab : ∀ i < size, a i = b i) :
    refSum p policy size here len k a = refSum p policy size here len k' b := by
  unfold refSum
  congr 3
  refine List.map_congr_left fun i hi => ?_
  have hi := List.mem_range.mp hi
  rw [hk i hi]
  congr 2
  exact refSample_congr p hh (hr.foldsReach hh hi) hab

/-- The filtered value is a matter of the taps below the lengths and of the channel inside the buffer. -/
theorem refConv_congr {sizeX sizeY lenX lenY x y ch : Nat} {kx ky kx' ky' : Nat → Word}
    {a b : Nat → Nat → Nat → Half} (hx : x < sizeX) (hy : y < sizeY) (hrx : RadiusFits policy sizeX lenX)
    (hry : RadiusFits policy sizeY lenY) (hkx : ∀ i < lenX, kx i = kx' i) (hky : ∀ i < lenY, ky i = ky' i)
    (hab : ∀ x' < sizeX, ∀ y' < sizeY, a x' y' ch = b x' y' ch) :
    refConv p policy sizeX sizeY lenX lenY kx ky a x y ch =
      refConv p policy sizeX sizeY lenX lenY kx' ky' b x y ch := by
  have hpassX : ∀ y' < sizeY, refSum p policy sizeX x lenX kx (fun x' => a x' y' ch) =
      refSum p policy sizeX x lenX kx' fun x' => b x' y' ch :=
    fun y' hy' => refSum_congr p hx hrx hkx fun x' hx' => hab x' hx' y' hy'
  unfold refConv
  cases p.combine with
  | compose => exact refSum_congr p hy hry hky hpassX
  | sum => exact congrArg₂ satadd (hpassX y hy) (refSum_congr p hy hry hky (hab x hx))

end

/-! ### The pipeline -/

section
variable {s : State}

theorem rangeOk_iff_forall_lt {a n : Nat} : s.rangeOk a n = true ↔ ∀ j < n, a + j < s.params.memSize := by
  rw [State.rangeOk_iff]
  refine ⟨fun h j hj => h (a + j) (by omega) (by omega), fun h b hab hb => ?_⟩
  have := h (b - a) (by omega)
  omega

theorem rangesExist_iff {m n : Nat} :
    RangesExist s m n ↔ s.rangeOk s.srcAddr m = true ∧ s.rangeOk s.dstAddr n = true :=
  and_congr rangeOk_iff_forall_lt.symm rangeOk_iff_forall_lt.symm

theorem rangesDisjoint_iff {m n : Nat} : RangesDisjoint s m n ↔ overlaps s.srcAddr m s.dstAddr n = false := by
  rw [← Bool.not_eq_true, overlaps_iff]
  constructor
  · rintro h ⟨a, hs, hd⟩
    exact h (a - s.srcAddr) (by omega) (a - s.dstAddr) (by omega)
      (show s.srcAddr + (a - s.srcAddr) = s.dstAddr + (a - s.dstAddr) by omega)
  · intro h i hi j hj (he : s.srcAddr + i = s.dstAddr + j)
    exact h ⟨s.srcAddr + i, by omega, by omega⟩

theorem State.strictCheck_eq_none_iff {n : Nat} :
    s.strictCheck n = none ↔ RangesExist s n n ∧ RangesDisjoint s n n := by
  rw [s.strictCheck_eq_none, rangesExist_iff, rangesDisjoint_iff, and_assoc]

theorem State.strictCheck_of_not_rangesExist {n : Nat} (h : ¬ RangesExist s n n) : s.strictCheck n = some .memRange := by
  rw [rangesExist_iff, ← Bool.and_eq_true, Bool.not_eq_true] at h
  exact if_pos (by rw [h]; rfl)

theorem State.strictCheck_of_not_rangesDisjoint {n : Nat} (he : RangesExist s n n) (h : ¬ RangesDisjoint s n n) :
    s.strictCheck n = some .overlap := by
  rw [rangesExist_iff, ← Bool.and_eq_true] at he
  rw [rangesDisjoint_iff, Bool.not_eq_false] at h
  exact (if_neg (by rw [he]; nofun)).trans (if_pos h)

end

/-- The filtered value of a pixel of the source buffer, for a set-up of the pipeline. -/
def State.filtered (s : State) (u : ConvSetup) : Nat → Nat → Nat → Half :=
  refConv s.params u.policy u.sizeX u.sizeY u.kx.length u.ky.length (fun i => u.kx.getD i 0#32)
    (fun i => u.ky.getD i 0#32) (refSource s u.sizeY)

/-- The filtered buffer in memory order (R63, R64). -/
def State.filteredHalves (s : State) (u : ConvSetup) : List Half :=
  (List.range (3 * (u.sizeX * u.sizeY))).map fun j => s.filtered u (j / 3 / u.sizeY) (j / 3 % u.sizeY) (j % 3)

@[simp] theorem State.length_filteredHalves (s : State) (u : ConvSetup) :
    (s.filteredHalves u).length = 3 * (u.sizeX * u.sizeY) := by
  simp [State.filteredHalves]

/-- R63, R64: halfword `j` of a buffer belongs to a pixel of the buffer. -/
theorem pixel_lt {sizeX sizeY j : Nat} (hj : j < 3 * (sizeX * sizeY)) :
    j / 3 / sizeY < sizeX ∧ j / 3 % sizeY < sizeY := by
  have hlt : j / 3 < sizeX * sizeY := by omega
  refine ⟨Nat.div_lt_of_lt_mul (by rwa [Nat.mul_comm]), Nat.mod_lt _ (Nat.pos_of_ne_zero ?_)⟩
  rintro rfl
  omega

/-- The halfword of that pixel and channel. -/
theorem half_div_mod (sizeY j : Nat) : 3 * (j / 3 / sizeY * sizeY + j / 3 % sizeY) + j % 3 = j := by
  rw [Nat.div_add_mod', Nat.div_add_mod]

theorem half_lt {sizeX sizeY x y ch : Nat} (hx : x < sizeX) (hy : y < sizeY) (hch : ch < 3) :
    3 * (x * sizeY + y) + ch < 3 * (sizeX * sizeY) := by
  have := Nat.mul_le_mul_right sizeY (Nat.succ_le_of_lt hx)
  rw [Nat.succ_mul] at this
  omega

/-- The halfword of a pixel and channel holds the filtered value there. -/
theorem State.getElem_filteredHalves (s : State) {u : ConvSetup} {x y ch : Nat} (hy : y < u.sizeY) (hch : ch < 3)
    (hj : 3 * (x * u.sizeY + y) + ch < (s.filteredHalves u).length) :
    (s.filteredHalves u)[3 * (x * u.sizeY + y) + ch] = s.filtered u x y ch := by
  have hdiv : (3 * (x * u.sizeY + y) + ch) / 3 = x * u.sizeY + y := by omega
  have hmod : (3 * (x * u.sizeY + y) + ch) % 3 = ch := by omega
  have hx : (x * u.sizeY + y) / u.sizeY = x := by
    rw [Nat.mul_comm, Nat.mul_add_div (by omega), Nat.div_eq_of_lt hy, Nat.add_zero]
  have hy' : (x * u.sizeY + y) % u.sizeY = y := by
    rw [Nat.mul_comm, Nat.mul_add_mod, Nat.mod_eq_of_lt hy]
  simp only [State.filteredHalves, List.getElem_map, List.getElem_range, hdiv, hmod, hx, hy']

theorem collect_map_ok (vs : List Half) : collect (vs.map .ok) = .ok vs := by
  induction vs with
  | nil => rfl
  | cons v vs ih => simp only [List.map_cons, collect, ih]

section
variable {u : ConvSetup} {s : State}

/-- When no radius is too large, no lookup of the pipeline faults (R207). -/
theorem collect_convImage (hr : radiusTooLarge u = false) :
    collect (imageHalves u.sizeY (convImage s.params u (s.srcImage u.sizeY)) (3 * (u.sizeX * u.sizeY))) =
      .ok (s.filteredHalves u) := by
  rw [← collect_map_ok, State.filteredHalves, List.map_map]
  refine congrArg collect (List.map_congr_left fun j hj => ?_)
  obtain ⟨hx, hy⟩ := pixel_lt (List.mem_range.mp hj)
  exact passesAreClippedSums s.params u (refSource s u.sizeY) _ _ _ hr hx hy

/-- R212. -/
theorem convolve_of_empty (hn : u.sizeX * u.sizeY = 0) : convolve u s = s.done := by
  simp only [convolve, if_pos hn]

/-- R207, R209. -/
theorem convolve_of_radiusTooLarge (hn : u.sizeX * u.sizeY ≠ 0) (hr : radiusTooLarge u = true) :
    convolve u s = s.raise .edgeRange := by
  simp only [convolve, if_neg hn, if_pos hr]

/-- R205, R210: with no radius too large the pipeline is a checked store of the filtered buffer. -/
theorem convolve_eq_storeUnless (hn : u.sizeX * u.sizeY ≠ 0) (hr : radiusTooLarge u = false) :
    convolve u s = s.storeUnless (s.strictCheck (3 * (u.sizeX * u.sizeY))) (s.filteredHalves u) := by
  simp only [convolve, if_neg hn, hr, collect_convImage hr, State.storeUnless]
  rfl

/-- Only the radius check raises `EDGE_RANGE`. -/
theorem faultOf_edgeRange_convolve_iff (hn : u.sizeX * u.sizeY ≠ 0) :
    FaultOf 0x06#8 s (convolve u s) ↔ radiusTooLarge u = true := by
  cases hr : radiusTooLarge u with
  | true => exact iff_of_true (convolve_of_radiusTooLarge (s := s) hn hr ▸ faultOf_raise s .edgeRange) rfl
  | false =>
    refine iff_of_false (fun hf => ?_) nofun
    rw [convolve_eq_storeUnless hn hr] at hf
    obtain ⟨-, hcode, hresp, -⟩ := hf
    obtain hc | hc | hc := s.strictCheck_cases (3 * (u.sizeX * u.sizeY)) <;> rw [hc] at hcode hresp
    · cases hresp
    · exact absurd hcode (by decide : causeCode .memRange ≠ 0x06#8)
    · exact absurd hcode (by decide : causeCode .overlap ≠ 0x06#8)

theorem onlyStores_storeHalves_done (s : State) (a : Nat) (vs : List Half) :
    OnlyStores a vs.length s (s.storeHalves a vs).done :=
  ⟨rfl, rfl, rfl, fun _ hb => s.byteAt_storeHalves_ne hb, rfl, rfl, rfl, rfl, rfl⟩

/-- R205: on ranges that exist and are disjoint the destination becomes the filtered source, and nothing else changes. -/
theorem convolve_result {n : Nat} (hn : n = u.sizeX * u.sizeY) (hne : n ≠ 0) (hr : radiusTooLarge u = false)
    (hwf : Mem.wf s.mem = true) (he : RangesExist s (3 * n) (3 * n)) (hd : RangesDisjoint s (3 * n) (3 * n)) :
    RespondsOk (convolve u s) ∧ OnlyStores s.ctl.dst.toNat (3 * n) s (convolve u s) ∧
      ∀ x y ch : Nat, x < u.sizeX → y < u.sizeY → ch < 3 →
        (convolve u s).halfAt (s.ctl.dst.toNat + 3 * (x * u.sizeY + y) + ch) = s.filtered u x y ch := by
  subst hn
  rw [convolve_eq_storeUnless hne hr, State.strictCheck_eq_none_iff.mpr ⟨he, hd⟩, State.storeUnless_none]
  refine ⟨rfl, ?_, fun x y ch hx hy hch => ?_⟩
  · have := onlyStores_storeHalves_done s s.dstAddr (s.filteredHalves u)
    rwa [State.length_filteredHalves] at this
  · have hj : 3 * (x * u.sizeY + y) + ch < (s.filteredHalves u).length := by
      rw [State.length_filteredHalves]
      exact half_lt hx hy hch
    rw [State.halfAt_done, Nat.add_assoc]
    exact (s.halfAt_storeHalves_self hwf _ hj).trans (s.getElem_filteredHalves hy hch hj)

end

/-! ### CONV and BLUR -/

theorem exec_conv (s : State) : exec .conv s = .next (convolve s.convSetup s) := rfl
theorem exec_blur (s : State) : exec .blur s = .next (convolve s.blurSetup s) := rfl

@[simp] theorem length_taps (k : Vector Word 15) (len : Word) : (taps k len).length = len.toNat := by
  simp [taps]

theorem getD_taps (k : Vector Word 15) {len : Word} {i : Nat} (h : i < len.toNat) :
    (taps k len).getD i 0#32 = tapOf k i := by
  simp [taps, tapOf, h]

@[simp] theorem State.convSetup_policy (s : State) : s.convSetup.policy = policyOf s.ctl.edge := rfl
@[simp] theorem State.convSetup_sizeX (s : State) : s.convSetup.sizeX = s.ctl.sizeX.toNat := rfl
@[simp] theorem State.convSetup_sizeY (s : State) : s.convSetup.sizeY = s.ctl.sizeY.toNat := rfl
@[simp] theorem State.length_convSetup_kx (s : State) : s.convSetup.kx.length = s.ctl.kxLen.toNat := length_taps _ _
@[simp] theorem State.length_convSetup_ky (s : State) : s.convSetup.ky.length = s.ctl.kyLen.toNat := length_taps _ _

theorem radiusTooLarge_convSetup_iff (s : State) :
    radiusTooLarge s.convSetup = true ↔
      (policyOf s.ctl.edge = .wrap ∨ policyOf s.ctl.edge = .reflect) ∧
        (s.ctl.sizeX.toNat < s.ctl.kxLen.toNat / 2 ∨ s.ctl.sizeY.toNat < s.ctl.kyLen.toNat / 2) := by
  simpa using radiusTooLarge_iff s.convSetup

/-- BLUR's policy folds nothing back (R215). -/
theorem radiusTooLarge_blurSetup (s : State) : radiusTooLarge s.blurSetup = false := rfl

/-- Settles O44: the size is looked at first. -/
theorem emptyBufferDoesNothing : Obligations.EmptyBufferDoesNothing := by
  intro s h
  have hn : s.ctl.sizeX.toNat * s.ctl.sizeY.toNat = 0 := by
    obtain h | h := h <;> simp [h]
  exact ⟨congrArg _ (convolve_of_empty (u := s.convSetup) hn), congrArg _ (convolve_of_empty (u := s.blurSetup) hn)⟩

/-- Settles O40: the fault is the radius check, and at pixel 0 the first tap is the one that reaches furthest. -/
theorem radiusCheckIsExact : Obligations.RadiusCheckIsExact := by
  intro s hsx hsy
  have hx0 : 0 < s.ctl.sizeX.toNat := Nat.pos_of_ne_zero (BitVec.toNat_ne.mp hsx)
  have hy0 : 0 < s.ctl.sizeY.toNat := Nat.pos_of_ne_zero (BitVec.toNat_ne.mp hsy)
  have hfault : (∃ t, exec .conv s = .next t ∧ FaultOf 0x06#8 s t) ↔ radiusTooLarge s.convSetup = true := by
    rw [← faultOf_edgeRange_convolve_iff (s := s) (Nat.mul_pos hx0 hy0).ne', exec_conv]
    simp
  refine ⟨hfault.trans (radiusTooLarge_convSetup_iff s), hfault.trans ?_⟩
  rw [radiusTooLarge_convSetup_iff, and_or_left, ← not_radiusFits_iff, ← not_radiusFits_iff,
    ← exists_not_foldsReach_iff hx0, ← exists_not_foldsReach_iff hy0]
  simp only [tapOffset, ← Int.add_sub_assoc]
  constructor
  · rintro (⟨x, hx, i, hi, hn⟩ | ⟨y, hy, i, hi, hn⟩)
    · exact ⟨x, 0, hx, hy0, .inl ⟨i, hi, (resolve_x_tap_eq_edgeRange_iff s.params hx hy0).mpr hn⟩⟩
    · exact ⟨0, y, hx0, hy, .inr ⟨i, hi, (resolve_y_tap_eq_edgeRange_iff s.params hx0 hy).mpr hn⟩⟩
  · rintro ⟨x, y, hx, hy, ⟨i, hi, h⟩ | ⟨i, hi, h⟩⟩
    · exact .inl ⟨x, hx, i, hi, (resolve_x_tap_eq_edgeRange_iff s.params hx hy).mp h⟩
    · exact .inr ⟨y, hy, i, hi, (resolve_y_tap_eq_edgeRange_iff s.params hx hy).mp h⟩

/-- Settles O42, from what the pipeline stores under the set-up of the control registers. -/
theorem convolutionResult : Obligations.ConvolutionResult := by
  rintro s _ _ n rfl rfl hn hne hwf hr he hd
  have hrx : RadiusFits (policyOf s.ctl.edge) s.ctl.sizeX.toNat s.ctl.kxLen.toNat := fun hp => (hr hp).1
  have hry : RadiusFits (policyOf s.ctl.edge) s.ctl.sizeY.toNat s.ctl.kyLen.toNat := fun hp => (hr hp).2
  have hfits : radiusTooLarge s.convSetup = false :=
    (radiusTooLarge_eq_false_iff s.convSetup).mpr (by simpa using ⟨hrx, hry⟩)
  obtain ⟨hok, hframe, hval⟩ := convolve_result (u := s.convSetup) hn hne hfits hwf he hd
  refine ⟨_, exec_conv s, hok, hframe, fun x y ch hx hy hch => (hval x y ch hx hy hch).trans ?_⟩
  simp only [State.filtered, State.length_convSetup_kx, State.length_convSetup_ky]
  exact refConv_congr s.params hx hy hrx hry (fun _ => getD_taps _) (fun _ => getD_taps _) fun _ _ _ _ => rfl

/-- Settles O46, from what it stores under BLUR's own set-up. -/
theorem boxBlurResult : Obligations.BoxBlurResult := by
  rintro s _ _ n rfl rfl hn hne hwf he hd
  obtain ⟨hok, hframe, hval⟩ :=
    convolve_result (u := s.blurSetup) hn hne (radiusTooLarge_blurSetup s) hwf he hd
  refine ⟨_, exec_blur s, hok, hframe, fun x y ch hx hy hch => (hval x y ch hx hy hch).trans ?_⟩
  have htaps : ∀ i < 3, [third, third, third].getD i 0#32 = 0x3EAAAAAB#32 := by decide
  exact refConv_congr s.params hx hy nofun nofun htaps htaps fun _ _ _ _ => rfl

/-- Settles O45, check by check. -/
theorem convolutionFaultOrder : Obligations.ConvolutionFaultOrder := by
  rintro s n rfl hne
  refine ⟨fun i hi => ?_, fun hr => ⟨_, exec_conv s, ?_⟩⟩
  · obtain ⟨t, hrun, ht⟩ : ∃ t, exec i s = .next t ∧
        ∃ vs, t = s.storeUnless (s.strictCheck (3 * (s.ctl.sizeX.toNat * s.ctl.sizeY.toNat))) vs := by
      obtain ⟨rfl, hr⟩ | rfl := hi
      · rw [← radiusTooLarge_convSetup_iff, Bool.not_eq_true] at hr
        exact ⟨_, exec_conv s, _, convolve_eq_storeUnless hne hr⟩
      · exact ⟨_, exec_blur s, _, convolve_eq_storeUnless hne (radiusTooLarge_blurSetup s)⟩
    obtain ⟨vs, rfl⟩ := ht
    refine ⟨fun he => ⟨_, hrun, ?_⟩, fun he hd => ⟨_, hrun, ?_⟩⟩
    · rw [State.strictCheck_of_not_rangesExist he]
      exact faultOf_raise s .memRange
    · rw [State.strictCheck_of_not_rangesDisjoint he hd]
      exact faultOf_raise s .overlap
  · exact (faultOf_edgeRange_convolve_iff hne).mpr ((radiusTooLarge_convSetup_iff s).mpr hr)

/-! ### The identity kernel -/

/-- One tap 1.0 reads the pixel itself, which is in range under any policy (R217). -/
theorem refSum_one_tap (p : Config.Params) (policy : Policy) {size here : Nat} {k : Nat → Word} (hh : here < size)
    (hk : k 0 = 0x3F800000#32) (at_ : Nat → Half) : refSum p policy size here 1 k at_ = at_ here := by
  have hsample : refSample p policy size here ((here : Int) + (((0 : Nat) : Int) - ((1 / 2 : Nat) : Int))) at_ =
      at_ here := by
    rw [show ((here : Int) + (((0 : Nat) : Int) - ((1 / 2 : Nat) : Int))) = here by omega,
      refSample_of_inside p policy here at_ (by omega), Int.toNat_natCast]
  have := (at_ here).isLt
  simp only [refSum, List.range_one, List.map_cons, List.map_nil, List.sum_cons, List.sum_nil, Nat.add_zero, hk,
    hsample, scale1_one]
  rw [min_eq_left (by omega), BitVec.ofNat_toNat, BitVec.setWidth_eq]

/-- Settles O43: at every halfword both passes read the pixel itself. -/
theorem identityKernelCopies : Obligations.IdentityKernelCopies := by
  intro s n hn hne hwf hlx hly hkx hky he hd
  have hfits : policyOf s.ctl.edge = .wrap ∨ policyOf s.ctl.edge = .reflect →
      s.ctl.kxLen.toNat / 2 ≤ s.ctl.sizeX.toNat ∧ s.ctl.kyLen.toNat / 2 ≤ s.ctl.sizeY.toNat := by
    simp [hlx, hly]
  obtain ⟨t, hrun, hok, hframe, hval⟩ := convolutionResult s _ _ n rfl rfl hn hne hwf hfits he hd
  refine ⟨t, hrun, hok, hframe, fun j hj => ?_⟩
  obtain ⟨hx, hy⟩ := pixel_lt (hn ▸ hj)
  have h := hval _ _ (j % 3) hx hy (Nat.mod_lt j (by decide))
  have hsrc : refSource s s.ctl.sizeY.toNat (j / 3 / s.ctl.sizeY.toNat) (j / 3 % s.ctl.sizeY.toNat) (j % 3) =
      s.halfAt (s.ctl.src.toNat + j) := by
    rw [refSource, Nat.add_assoc, half_div_mod]
  have hone : (1#32 : Word).toNat = 1 := rfl
  have hkx' : tapOf s.ctl.kx 0 = 0x3F800000#32 := by simpa [tapOf] using hkx
  have hky' : tapOf s.ctl.ky 0 = 0x3F800000#32 := by simpa [tapOf] using hky
  rw [Nat.add_assoc, half_div_mod, refConv, hlx, hly, hone] at h
  rw [h, ← hsrc]
  exact ⟨fun hc => by simp only [hc, refSum_one_tap s.params _ hx hkx', refSum_one_tap s.params _ hy hky'],
    fun hc => by simp only [hc, refSum_one_tap s.params _ hx hkx', refSum_one_tap s.params _ hy hky']⟩

/-! ### The old destination -/

/-- The filtered buffer is a matter of the source buffer (R210). -/
theorem filteredHalves_congr {u : ConvSetup} {s₁ s₂ : State} (hr : radiusTooLarge u = false) (hctl : s₂.ctl = s₁.ctl)
    (hp : s₂.params = s₁.params)
    (hsrc : ∀ j < 3 * (u.sizeX * u.sizeY), s₂.halfAt (s₁.ctl.src.toNat + j) = s₁.halfAt (s₁.ctl.src.toNat + j)) :
    s₂.filteredHalves u = s₁.filteredHalves u := by
  obtain ⟨hrx, hry⟩ := (radiusTooLarge_eq_false_iff u).mp hr
  refine List.map_congr_left fun j hj => ?_
  obtain ⟨hx, hy⟩ := pixel_lt (List.mem_range.mp hj)
  rw [State.filtered, State.filtered, hp]
  refine refConv_congr s₁.params hx hy hrx hry (fun _ _ => rfl) (fun _ _ => rfl) fun x' hx' y' hy' => ?_
  rw [refSource, refSource, hctl, Nat.add_assoc]
  exact hsrc _ (half_lt hx' hy' (Nat.mod_lt j (by decide)))

theorem strictCheck_congr {s₁ s₂ : State} (hctl : s₂.ctl = s₁.ctl) (hp : s₂.params = s₁.params) (n : Nat) :
    s₂.strictCheck n = s₁.strictCheck n := by
  unfold State.strictCheck State.rangeOk State.srcAddr State.dstAddr
  rw [hctl, hp]

/-- A checked store of the same halfwords at the same place, on whatever memory: the same answer, and the same halfwords
there if it is OK. -/
theorem storeUnless_agree {s₁ s₂ : State} (hw₁ : Mem.wf s₁.mem = true) (hw₂ : Mem.wf s₂.mem = true)
    (hctl : s₂.ctl = s₁.ctl) (c : Option Cause) (vs : List Half) :
    (s₂.storeUnless c vs).resp = (s₁.storeUnless c vs).resp ∧
      (RespondsOk (s₁.storeUnless c vs) → ∀ j < vs.length,
        (s₂.storeUnless c vs).halfAt (s₁.ctl.dst.toNat + j) = (s₁.storeUnless c vs).halfAt (s₁.ctl.dst.toNat + j)) := by
  cases c with
  | some c => exact ⟨rfl, nofun⟩
  | none =>
    refine ⟨rfl, fun _ j hj => ?_⟩
    have h₂ := s₂.halfAt_storeHalves_self hw₂ s₂.dstAddr hj
    rw [State.dstAddr, hctl] at h₂
    have h₁ := s₁.halfAt_storeHalves_self hw₁ s₁.dstAddr hj
    simp only [State.storeUnless_none, State.halfAt_done, State.dstAddr, hctl]
    exact h₂.trans h₁.symm

/-- R210, for one set-up of the pipeline. -/
theorem convolve_agree (u : ConvSetup) {s₁ s₂ : State} (hctl : s₂.ctl = s₁.ctl) (hp : s₂.params = s₁.params)
    (hw₁ : Mem.wf s₁.mem = true) (hw₂ : Mem.wf s₂.mem = true)
    (hsrc : ∀ j < 3 * (u.sizeX * u.sizeY), s₂.halfAt (s₁.ctl.src.toNat + j) = s₁.halfAt (s₁.ctl.src.toNat + j)) :
    (convolve u s₂).resp = (convolve u s₁).resp ∧
      (RespondsOk (convolve u s₁) → ∀ j < 3 * (u.sizeX * u.sizeY),
        (convolve u s₂).halfAt (s₁.ctl.dst.toNat + j) = (convolve u s₁).halfAt (s₁.ctl.dst.toNat + j)) := by
  by_cases hn : u.sizeX * u.sizeY = 0
  · rw [convolve_of_empty hn, convolve_of_empty hn]
    refine ⟨rfl, fun _ j hj => ?_⟩
    omega
  cases hr : radiusTooLarge u with
  | true =>
    rw [convolve_of_radiusTooLarge hn hr, convolve_of_radiusTooLarge hn hr]
    exact ⟨rfl, nofun⟩
  | false =>
    rw [convolve_eq_storeUnless hn hr, convolve_eq_storeUnless hn hr, strictCheck_congr hctl hp,
      filteredHalves_congr hr hctl hp hsrc, ← s₁.length_filteredHalves u]
    exact storeUnless_agree hw₁ hw₂ hctl _ _

/-- Settles O47: both commands take their set-up from the control registers alone. -/
theorem convolutionIgnoresOldDestination : Obligations.ConvolutionIgnoresOldDestination := by
  rintro i s₁ s₂ t₁ t₂ n hi rfl hctl hp hw₁ hw₂ hsrc h₁ h₂
  obtain rfl | rfl := hi
  · have hset : s₂.convSetup = s₁.convSetup := by rw [State.convSetup, State.convSetup, hctl]
    rw [exec_conv] at h₁ h₂
    cases h₁
    cases h₂
    rw [hset]
    exact convolve_agree s₁.convSetup hctl hp hw₁ hw₂ hsrc
  · have hset : s₂.blurSetup = s₁.blurSetup := by rw [State.blurSetup, State.blurSetup, hctl]
    rw [exec_blur] at h₁ h₂
    cases h₁
    cases h₂
    rw [hset]
    exact convolve_agree s₁.blurSetup hctl hp hw₁ hw₂ hsrc

/-! ### Thirds of a channel value -/

/-- Rounding does not bring a product below a number of 24 significant bits. -/
theorem mul_two_pow_le_roundUnits {a e n : Nat} (ha : a < 2 ^ 24) (h : a * 2 ^ e ≤ n) :
    a * 2 ^ e ≤ F32.roundUnits n 0 := by
  exact_mod_cast F32.le_roundUnits (F32.onGrid_mul_two_pow ha e) (by rw [pow_zero, mul_one]; exact_mod_cast h)

/-- Nor does it lift one above such a number. -/
theorem roundUnits_le_mul_two_pow {a e n : Nat} (ha : a < 2 ^ 24) (h : n ≤ a * 2 ^ e) :
    F32.roundUnits n 0 ≤ a * 2 ^ e := by
  exact_mod_cast F32.roundUnits_le (F32.onGrid_mul_two_pow ha e) (by rw [pow_zero, mul_one]; exact_mod_cast h)

/-- The binary32 nearest to 1/3 is `(2^25 + 1) / 3` units of 2^-25. It lies above 1/3, but too little for a product to
reach the next whole number: the largest binary32 number of 16 + 8 bits below that one still bounds it. -/
theorem toNat_scale1_third (c : Half) : (scale1 c 0x3EAAAAAB#32).toNat = c.toNat / 3 := by
  have hval : F32.value 0x3EAAAAAB#32 = .num (11184811 * 2 ^ 124 : Nat) := rfl
  have hc := c.isLt
  have hhi : F32.roundUnits (c.toNat * (11184811 * 2 ^ 124)) 0 ≤ (c.toNat / 3 * 2 ^ 8 + 255) * 2 ^ 141 :=
    roundUnits_le_mul_two_pow (by omega) (by omega)
  have hlo : c.toNat / 3 * 2 ^ 149 ≤ F32.roundUnits (c.toNat * (11184811 * 2 ^ 124)) 0 :=
    mul_two_pow_le_roundUnits (by omega) (by omega)
  rw [toNat_scale1 hval, Int.toNat_natCast]
  omega

/-- Away from the edge three taps of 1/3 on a uniform line give three times the third (R218). -/
theorem toNat_refSum_third (p : Config.Params) (policy : Policy) {size here c : Nat} {at_ : Nat → Half}
    (hlo : 1 ≤ here) (hhi : here + 2 ≤ size) (hat : ∀ i < size, (at_ i).toNat = c) :
    (refSum p policy size here 3 (fun _ => 0x3EAAAAAB#32) at_).toNat = c - c % 3 := by
  have htap : ∀ i ∈ List.range 3,
      (scale1 (refSample p policy size here ((here : Int) + ((i : Int) - ((3 / 2 : Nat) : Int))) at_)
        0x3EAAAAAB#32).toNat = c / 3 := by
    intro i hi
    have hi := List.mem_range.mp hi
    rw [refSample_of_inside p policy here at_ (by omega), toNat_scale1_third, hat _ (by omega)]
  have hc := hat here (by omega) ▸ (at_ here).isLt
  rw [refSum, List.map_congr_left htap, List.map_const', List.sum_replicate, List.length_range, BitVec.toNat_ofNat,
    smul_eq_mul]
  omega

/-- Settles O48: in the interior each pass of a uniform channel is uniform again, and three thirds of a multiple of 3 are
that multiple. -/
theorem uniformInteriorUnderBlur : Obligations.UniformInteriorUnderBlur := by
  rintro s sizeX sizeY n ch c hsx hsy hn hch hwf he hd huni
  by_cases hne : n = 0
  · refine ⟨_, exec_blur s, ?_, fun x y hx hx' hy hy' => ?_⟩
    · rw [convolve_of_empty (u := s.blurSetup) (by rw [← hne, hn, hsx, hsy]; rfl)]
      rfl
    · exact absurd hne (hn ▸ (Nat.mul_pos (by omega) (by omega)).ne')
  obtain ⟨t, hrun, hok, -, hval⟩ := boxBlurResult s sizeX sizeY n hsx hsy hn hne hwf he hd
  refine ⟨t, hrun, hok, fun x y hx hx' hy hy' => ?_⟩
  have huni' : ∀ x' < sizeX, ∀ y' < sizeY, (refSource s sizeY x' y' ch).toNat = c.toNat :=
    fun x' hx' y' hy' => congrArg BitVec.toNat (huni x' y' hx' hy')
  have hpassX : ∀ y' < sizeY, (refSum s.params .black sizeX x 3 (fun _ => 0x3EAAAAAB#32)
      fun x' => refSource s sizeY x' y' ch).toNat = c.toNat - c.toNat % 3 :=
    fun y' hlt => toNat_refSum_third s.params .black hx hx' fun x' hltx => huni' x' hltx y' hlt
  rw [hval x y ch (by omega) (by omega) hch]
  unfold refConv
  refine ⟨fun hcomb => ?_, fun hcomb => ?_⟩
  · simp only [hcomb]
    rw [toNat_refSum_third s.params .black hy hy' hpassX]
    omega
  · simp only [hcomb, toNat_satadd]
    rw [hpassX y (by omega), toNat_refSum_third s.params .black hy hy' (huni' x (by omega)), Nat.two_mul]

end Sys2Proof.Machine

/-! ### Vector operations: checked stores

Each vector command but VFILL checks its two ranges and then stores halfwords that are a function of their place; VFILL
checks its destination only. -/

namespace Sys2Proof.Machine

open Sys2Proof.Safety

section
variable {s : State} {i : Instr} {m n : Nat}

/-- A checked store at `CR.DST` of `n` halfwords, halfword `j` of value `f j`, after a source range of `m` halfwords was
checked (R233). -/
def State.storeVector (s : State) (m n : Nat) (f : Nat → Half) : State :=
  s.storeUnless (s.vectorCheck m n) ((List.range n).map f)

theorem State.vectorCheck_eq_none_iff : s.vectorCheck m n = none ↔ VectorRuns s m n := by
  rw [s.vectorCheck_eq_none, VectorRuns, rangesExist_iff, rangesDisjoint_iff, and_assoc]

theorem State.storeVector_of_vectorRuns (h : VectorRuns s m n) (f : Nat → Half) :
    s.storeVector m n f = (s.storeHalves s.dstAddr ((List.range n).map f)).done := by
  rw [State.storeVector, State.vectorCheck_eq_none_iff.mpr h, State.storeUnless_none]

theorem State.storeVector_of_not_rangesExist (h : ¬ RangesExist s m n) (f : Nat → Half) :
    s.storeVector m n f = s.raise .memRange := by
  have hc : s.vectorCheck m n = some .memRange := by
    rw [rangesExist_iff, ← Bool.and_eq_true, Bool.not_eq_true] at h
    exact if_pos (by rw [h]; rfl)
  rw [State.storeVector, hc, State.storeUnless_some]

theorem State.storeVector_of_not_rangesDisjoint (he : RangesExist s m n) (h : ¬ RangesDisjoint s m n)
    (hne : s.ctl.src ≠ s.ctl.dst) (f : Nat → Half) : s.storeVector m n f = s.raise .overlap := by
  have hc : s.vectorCheck m n = some .overlap := by
    rw [rangesExist_iff, ← Bool.and_eq_true] at he
    rw [rangesDisjoint_iff, Bool.not_eq_false] at h
    exact (if_neg (by rw [he]; nofun)).trans (if_pos (by rw [h, bne_iff_ne.mpr hne]; rfl))
  rw [State.storeVector, hc, State.storeUnless_some]

/-- What a command leaves behind that stores `vs` at `CR.DST`: the halfwords read back, and nothing else changed. -/
theorem exists_exec_of_storeHalves {vs : List Half} (h : exec i s = .next (s.storeHalves s.dstAddr vs).done)
    (hwf : Mem.wf s.mem = true) (hn : vs.length = n) :
    ∃ t, exec i s = .next t ∧ RespondsOk t ∧ OnlyStores s.ctl.dst.toNat n s t ∧
      ∀ (j : Nat) (v : Half), vs[j]? = some v → t.halfAt (s.ctl.dst.toNat + j) = v := by
  subst hn
  refine ⟨_, h, rfl, onlyStores_storeHalves_done s s.dstAddr vs, fun j v hv => ?_⟩
  obtain ⟨hj, rfl⟩ := List.getElem?_eq_some_iff.mp hv
  exact s.halfAt_storeHalves_self hwf s.dstAddr hj

/-- The same of a vector command whose checks pass. -/
theorem exists_exec_of_vectorRuns {f : Nat → Half} (h : exec i s = .next (s.storeVector m n f))
    (hwf : Mem.wf s.mem = true) (hr : VectorRuns s m n) :
    ∃ t, exec i s = .next t ∧ RespondsOk t ∧ OnlyStores s.ctl.dst.toNat n s t ∧
      ∀ j : Nat, j < n → t.halfAt (s.ctl.dst.toNat + j) = f j := by
  rw [State.storeVector_of_vectorRuns hr] at h
  obtain ⟨t, ht, hok, hframe, hval⟩ := exists_exec_of_storeHalves (n := n) h hwf (by simp)
  exact ⟨t, ht, hok, hframe, fun j hj => hval j _ (by simp [hj])⟩

end

/-! ### The vector commands as checked stores -/

section
variable (s : State) (n amt m : XReg) (k : Elem)

theorem exec_vcopy : exec (.vcopy n k) s =
    .next (s.storeVector (elemSize k * (s.getX n).toNat) (elemSize k * (s.getX n).toNat)
      fun j => s.halfAt (s.ctl.src.toNat + j)) := rfl

theorem exec_vfade : exec (.vfade n amt k) s =
    .next (s.storeVector (elemSize k * (s.getX n).toNat) (elemSize k * (s.getX n).toNat)
      fun j => satsub (s.halfAt (s.ctl.src.toNat + j)) (BitVec.ofNat 16 (s.getX amt).toNat)) := rfl

theorem exec_vbrt : exec (.vbrt n amt k) s =
    .next (s.storeVector (elemSize k * (s.getX n).toNat) (elemSize k * (s.getX n).toNat)
      fun j => satadd (s.halfAt (s.ctl.src.toNat + j)) (BitVec.ofNat 16 (s.getX amt).toNat)) := rfl

theorem exec_vadd : exec (.vadd n) s =
    .next (s.storeVector (s.getX n).toNat (s.getX n).toNat
      fun j => s.halfAt (s.ctl.dst.toNat + j) + s.halfAt (s.ctl.src.toNat + j)) := rfl

theorem exec_vblur1 : exec (.vblur1 n amt k) s =
    .next (s.storeVector (elemSize k * (s.getX n).toNat) (elemSize k * (s.getX n).toNat)
      (s.blurHalf (elemSize k) (s.getX n).toNat (blurWeights (s.getX amt)))) := rfl

/-- VTILE looks at its modulus first (R238). -/
theorem exec_vtile_of_zero (h : s.getX m = 0#32) : exec (.vtile n m k) s = .next (s.raise .divZero) :=
  if_pos (congrArg BitVec.toNat h)

theorem exec_vtile_of_ne_zero (h : s.getX m ≠ 0#32) : exec (.vtile n m k) s =
    .next (s.storeVector (elemSize k * min (s.getX n).toNat (s.getX m).toNat) (elemSize k * (s.getX n).toNat)
      fun j => s.halfAt (s.ctl.src.toNat + tileIndex (elemSize k) (s.getX m).toNat j)) :=
  if_neg fun h0 => h (BitVec.eq_of_toNat_eq h0)

variable (d : CReg)

theorem exec_vfill_of_rangeOk (h : s.rangeOk s.dstAddr (3 * (s.getX n).toNat) = true) : exec (.vfill d n) s =
    .next (s.storeHalves s.dstAddr (List.replicate (s.getX n).toNat (s.getC d).halves).flatten).done :=
  congrArg (fun c => Host.Outcome.next (s.storeUnless c _)) (if_pos h)

theorem exec_vfill_of_not_rangeOk (h : ¬ s.rangeOk s.dstAddr (3 * (s.getX n).toNat) = true) :
    exec (.vfill d n) s = .next (s.raise .memRange) :=
  congrArg (fun c => Host.Outcome.next (s.storeUnless c _)) (if_neg h)

end

/-- Settles O57: the three checks in their order, for every command that is a checked store; VFILL by its own. -/
theorem vectorFaultOrder : Obligations.VectorFaultOrder := by
  refine fun s n m k => ⟨fun i src dst hi => ?_, fun hm => ?_, fun d j hj hmem => ?_⟩
  · have hstore : ∃ f, exec i s = .next (s.storeVector src dst f) := by
      obtain ⟨rfl | rfl | rfl | rfl, rfl, rfl⟩ | ⟨rfl, rfl, rfl⟩ | ⟨rfl, hm, rfl, rfl⟩ := hi
      · exact ⟨_, exec_vcopy s n k⟩
      · exact ⟨_, exec_vfade s n m k⟩
      · exact ⟨_, exec_vbrt s n m k⟩
      · exact ⟨_, exec_vblur1 s n m k⟩
      · exact ⟨_, exec_vadd s n⟩
      · exact ⟨_, exec_vtile_of_ne_zero s n m k hm⟩
    obtain ⟨f, hf⟩ := hstore
    refine ⟨fun hr => ?_, fun hr hd hne => ?_⟩
    · rw [State.storeVector_of_not_rangesExist hr] at hf
      exact ⟨_, hf, faultOf_raise s .memRange⟩
    · rw [State.storeVector_of_not_rangesDisjoint hr hd hne] at hf
      exact ⟨_, hf, faultOf_raise s .overlap⟩
  · exact ⟨_, exec_vtile_of_zero s n m k hm, faultOf_raise s .divZero⟩
  · exact ⟨_, exec_vfill_of_not_rangeOk s n d (State.not_rangeOk_of_le hj hmem), faultOf_raise s .memRange⟩

/-- Settles O52: each command is a checked store of the stated values. -/
theorem elementwiseVectorResults : Obligations.ElementwiseVectorResults := by
  refine ⟨⟨rfl, rfl⟩, fun s n amt k hwf => ⟨fun hr => ⟨?_, ?_, ?_⟩, fun hr => ?_⟩⟩
  · exact exists_exec_of_vectorRuns (exec_vcopy s n k) hwf hr
  · exact exists_exec_of_vectorRuns (exec_vfade s n amt k) hwf hr
  · exact exists_exec_of_vectorRuns (exec_vbrt s n amt k) hwf hr
  · obtain ⟨t, ht, hok, hframe, hval⟩ := exists_exec_of_vectorRuns (exec_vadd s n) hwf hr
    exact ⟨t, ht, hok, hframe, fun j hj => by rw [hval j hj, BitVec.toNat_add]⟩

/-! ### Elements and their halfwords -/

section
variable {e n i c : Nat}

/-- R231: halfword `c` of element `i` is one of the `e × n` halfwords of the range. -/
theorem elem_half_lt (hi : i < n) (hc : c < e) : e * i + c < e * n :=
  calc e * i + c < e * (i + 1) := by rw [Nat.mul_succ]; omega
    _ ≤ e * n := Nat.mul_le_mul_left e hi

/-- The element a halfword belongs to. -/
theorem elem_half_div (hc : c < e) : (e * i + c) / e = i := by
  rw [Nat.mul_add_div (by omega), Nat.div_eq_of_lt hc, Nat.add_zero]

/-- The place of a halfword in its element. -/
theorem elem_half_mod (hc : c < e) : (e * i + c) % e = c := by
  rw [Nat.mul_add_mod, Nat.mod_eq_of_lt hc]

theorem tileIndex_elem_half (m : Nat) (hc : c < e) : tileIndex e m (e * i + c) = e * (i % m) + c := by
  rw [tileIndex, elem_half_div hc, elem_half_mod hc]

/-- A list written `n` times over, at place `c` of its copy `i`. -/
theorem getElem?_flatten_replicate {α : Type} (l : List α) (hi : i < n) (hc : c < l.length) :
    (List.replicate n l).flatten[l.length * i + c]? = l[c]? := by
  induction n generalizing i with
  | zero => omega
  | succ n ih =>
    rw [List.replicate_succ, List.flatten_cons]
    cases i with
    | zero => rw [Nat.mul_zero, Nat.zero_add, List.getElem?_append_left hc]
    | succ i =>
      rw [List.getElem?_append_right (by rw [Nat.mul_succ]; omega),
        show l.length * (i + 1) + c - l.length = l.length * i + c by rw [Nat.mul_succ]; omega, ih (by omega)]

end

/-- Settles O53: the tile index of a halfword, and the place of a halfword in a repeated colour. -/
theorem tileAndFillResults : Obligations.TileAndFillResults := by
  refine fun s n hwf => ⟨fun m k hm hr => ?_, fun d hmem => ?_⟩
  · obtain ⟨t, ht, hok, hframe, hval⟩ := exists_exec_of_vectorRuns (exec_vtile_of_ne_zero s n m k hm) hwf hr
    refine ⟨t, ht, hok, hframe, fun i c hi hc => ?_⟩
    rw [Nat.add_assoc, hval _ (elem_half_lt hi hc), tileIndex_elem_half _ hc, ← Nat.add_assoc]
  · have hlen : (List.replicate (s.getX n).toNat (s.getC d).halves).flatten.length = 3 * (s.getX n).toNat := by
      simp [Color.halves, Nat.mul_comm]
    obtain ⟨t, ht, hok, hframe, hval⟩ :=
      exists_exec_of_storeHalves (exec_vfill_of_rangeOk s n d (rangeOk_iff_forall_lt.mpr hmem)) hwf hlen
    refine ⟨t, ht, hok, hframe, fun i hi => ?_⟩
    have hchan (c : Nat) (v : Half) (hv : (s.getC d).halves[c]? = some v) :
        t.halfAt (s.ctl.dst.toNat + (3 * i + c)) = v :=
      hval _ v ((getElem?_flatten_replicate _ hi (List.getElem?_eq_some_iff.mp hv).1).trans hv)
    exact ⟨hchan 0 _ rfl, hchan 1 _ rfl, hchan 2 _ rfl⟩

/-! ### The circular blur -/

/-- The left neighbour on a ring of `n` elements (R260). -/
theorem ring_left_eq {n i l : Nat} (hi : i < n) (hl : (l : Int) = ((i : Int) - 1) % n) : l = (i + n - 1) % n := by
  rw [← Int.add_emod_right] at hl
  have hcast : ((i : Int) - 1 + n) = ((i + n - 1 : Nat) : Int) := by omega
  rw [hcast] at hl
  exact_mod_cast hl

theorem blurHalf_elem_half (s : State) {e i c : Nat} (n : Nat) (w : Word × Word) (hc : c < e) :
    s.blurHalf e n w (e * i + c) =
      satadd (satadd (scale1 (s.srcHalf (e * i + c)) w.1) (scale1 (s.srcHalf (e * ((i + n - 1) % n) + c)) w.2))
        (scale1 (s.srcHalf (e * ((i + 1) % n) + c)) w.2) := by
  simp only [State.blurHalf, elem_half_div hc, elem_half_mod hc]

/-- Settles O54, at the halfword of an element and a channel. -/
theorem circularBlurResult : Obligations.CircularBlurResult := by
  intro s n amt k wc ws hwf hw hr
  obtain ⟨t, ht, hok, hframe, hval⟩ := exists_exec_of_vectorRuns (exec_vblur1 s n amt k) hwf hr
  refine ⟨t, ht, hok, hframe, fun i c l r hi hc hl hright => ?_⟩
  rw [Nat.add_assoc, hval _ (elem_half_lt hi hc), ← hw, blurHalf_elem_half s _ _ hc, ← ring_left_eq hi hl, ← hright]
  simp only [State.srcHalf, State.srcAddr, Nat.add_assoc]

/-- The weights of an amount are those of the clamped amount. -/
theorem blurWeights_congr {a b : Word} (h : F32.clampT a = F32.clampT b) : blurWeights a = blurWeights b := by
  have hside : blurSide a = blurSide b := by rw [blurSide, h, ← blurSide]
  simp only [blurWeights, blurCentre, hside]

/-- R262, one weight at a time. -/
theorem blurWeights_eq {a wc ws : Word} (hc : blurCentre a = wc) (hs : blurSide a = ws) : blurWeights a = (wc, ws) :=
  Prod.ext hc hs

theorem blurWeights_zero : blurWeights 0x00000000#32 = (0x3F800000#32, 0xBD4CCCCD#32) :=
  blurWeights_eq (by decide) (by decide)

/-- R262 at 1.0. -/
theorem blurWeights_one : blurWeights 0x3F800000#32 = (0x3EDDDDDE#32, 0x3E911111#32) :=
  blurWeights_eq (by decide) (by decide)

/-- Settles O55: a side weight that is not positive counts as 0, and an amount of at least 1 is clamped to 1. -/
theorem circularBlurWeights : Obligations.CircularBlurWeights := by
  refine ⟨?_, blurWeights_zero, blurWeights_eq (by decide) (by decide), fun amount h => ?_⟩
  · rintro amount _ _ _ wsp _ rfl rfl rfl hpos hnonpos rfl
    have hwsp : F32.units wsp = if 0 < F32.units (blurSide amount) then F32.units (blurSide amount) else 0 := by
      split
      · next h => rw [hpos h]; rfl
      · next h => rw [hnonpos (Int.not_lt.mp h)]; rfl
    rw [hwsp]
    rfl
  · have hclamp : F32.clampT amount = F32.clampT 0x3F800000#32 := (clampToUnitRange amount).2.1 h
    exact (blurWeights_congr hclamp).trans blurWeights_one

/-- A centre weight of 1.0 and a side weight without a contribution leave the source as it is. -/
theorem blurHalf_of_identity_weights (s : State) {w : Word × Word} (hc : w.1 = 0x3F800000#32)
    (hs : ∀ v, scale1 v w.2 = 0#16) (e n j : Nat) : s.blurHalf e n w j = s.srcHalf j := by
  simp only [State.blurHalf, hc, hs, scale1_one, satadd_zero, Nat.div_add_mod]

/-- The side weight of amount +0.0 is negative (R263). -/
theorem scale1_blurWeights_zero (c : Half) : scale1 c (blurWeights 0x00000000#32).2 = 0#16 := by
  rw [blurWeights_zero]
  exact scale1_of_nonpos (u := F32.units 0xBD4CCCCD#32) rfl (by decide)

/-- Settles O56. -/
theorem blurAmountZeroCopies : Obligations.BlurAmountZeroCopies := by
  have hcentre : (blurWeights 0x00000000#32).1 = 0x3F800000#32 := by rw [blurWeights_zero]
  refine ⟨hcentre, scale1_blurWeights_zero, fun s n amt k hwf hamt hr => ?_⟩
  obtain ⟨t, ht, hok, hframe, hval⟩ := exists_exec_of_vectorRuns (exec_vblur1 s n amt k) hwf hr
  refine ⟨t, ht, hok, hframe, fun j hj => ?_⟩
  rw [hval j hj, hamt, blurHalf_of_identity_weights s hcentre scale1_blurWeights_zero]
  rfl

end Sys2Proof.Machine

/-! ### Register moves -/

namespace Sys2Proof.Machine

open Sys2Proof.Safety

theorem onlyResponds_respond (s : State) (st : Status) (data : Word) : OnlyResponds s (s.respond st data) :=
  ⟨rfl, rfl, rfl, fun _ => rfl, rfl, rfl, rfl, rfl, rfl⟩

/-- The low half of a data operand (R96), numerically. -/
theorem State.toNat_lo16 (s : State) (i : XReg) : (s.lo16 i).toNat = (s.getX i).toNat % 2 ^ 16 := by
  simp [State.lo16]

/-- One halfword above another in a word (R276). -/
theorem toNat_append_half (hi lo : Half) : (hi ++ lo).toNat = hi.toNat * 2 ^ 16 + lo.toNat := by
  rw [BitVec.toNat_append, ← Nat.shiftLeft_add_eq_or_of_lt lo.isLt, Nat.shiftLeft_eq]

section
variable (s : State)

theorem exec_nop : exec .nop s = .next (s.respond .ok 0#32) := rfl
theorem exec_xrd (a : XReg) : exec (.xrd a) s = .next (s.respond .ok (s.getX a)) := rfl

theorem exec_xli (d : XReg) (imm : Half) : exec (.xli d imm) s = .next (s.setX d (imm.signExtend 32)).done := rfl
theorem exec_xlh (d : XReg) (imm : Half) : exec (.xlh d imm) s = .next (s.setX d (imm ++ s.lo16 d)).done := rfl
theorem exec_xmov (d a : XReg) : exec (.xmov d a) s = .next (s.setX d (s.getX a)).done := rfl

theorem exec_cli (d : CReg) (ch : Chan) (imm : Half) :
    exec (.cli d ch imm) s = .next (s.setC d ((s.getC d).set ch imm)).done := rfl
theorem exec_cmov (d a : CReg) : exec (.cmov d a) s = .next (s.setC d (s.getC a)).done := rfl
theorem exec_cget (d : XReg) (a : CReg) (ch : Chan) :
    exec (.cget d a ch) s = .next (s.setX d (((s.getC a).get ch).zeroExtend 32)).done := rfl
theorem exec_cset (d : CReg) (a : XReg) (ch : Chan) :
    exec (.cset d a ch) s = .next (s.setC d ((s.getC d).set ch (s.lo16 a))).done := rfl

end

/-- Settles O32: both commands only respond. -/
theorem nopAndReadRegister : Obligations.NopAndReadRegister := fun s =>
  ⟨⟨_, exec_nop s, rfl, onlyResponds_respond s _ _⟩, fun a => ⟨_, exec_xrd s a, rfl, onlyResponds_respond s _ _⟩⟩

/-- Settles O30: the three words written, each as the number its rule gives. -/
theorem xRegisterMoves : Obligations.XRegisterMoves := by
  refine fun s => ⟨fun d imm => ⟨_, exec_xli s d imm, rfl, onlyX_setX_done d _ s, ?_⟩,
    fun d imm => ⟨_, exec_xlh s d imm, rfl, onlyX_setX_done d _ s, ?_⟩,
    fun d a => ⟨_, exec_xmov s d a, rfl, onlyX_setX_done d _ s, ?_⟩⟩ <;>
    rw [State.getX_done, State.getX_setX_self]
  · exact BitVec.toInt_signExtend_of_le (by decide)
  · rw [toNat_append_half, State.toNat_lo16]

/-- A command that writes one channel keeps the other two (R280, R283). -/
theorem exists_exec_of_setChannel {s : State} {i : Instr} {d : CReg} {ch : Chan} {v : Half}
    (h : exec i s = .next (s.setC d ((s.getC d).set ch v)).done) :
    ∃ t, exec i s = .next t ∧ RespondsOk t ∧ OnlyC d s t ∧ (t.getC d).get ch = v ∧
      ∀ k : Chan, k ≠ ch → (t.getC d).get k = (s.getC d).get k := by
  refine ⟨_, h, rfl, onlyC_setC_done d _ s, ?_⟩
  rw [State.getC_done, State.getC_setC_self]
  exact ⟨Color.get_set_self _ ch v, fun k hk => Color.get_set_ne _ v hk⟩

/-- Settles O31: CLI and CSET are the same channel write, of the immediate and of the low half of the X register. -/
theorem colourRegisterMoves : Obligations.ColourRegisterMoves := by
  refine fun s => ⟨fun d ch imm => exists_exec_of_setChannel (exec_cli s d ch imm), fun d a => ?_,
    fun d a ch => ?_, fun d a ch => ?_⟩
  · exact ⟨_, exec_cmov s d a, rfl, onlyC_setC_done d _ s, s.getC_setC_self d _⟩
  · refine ⟨_, exec_cget s d a ch, rfl, onlyX_setX_done d _ s, ?_⟩
    rw [State.getX_done, State.getX_setX_self]
    exact BitVec.toNat_setWidth_of_le (by decide)
  · obtain ⟨t, ht, hok, hframe, hch, hother⟩ := exists_exec_of_setChannel (exec_cset s d a ch)
    exact ⟨t, ht, hok, hframe, hch ▸ s.toNat_lo16 a, hother⟩

/-! ### Control-register access -/

section
variable {s : State} {d : XReg} {cr : Half}

theorem exec_crw_of_unassigned (hn : ctlName s.params cr = none) :
    exec (.crw d cr) s = .next (s.raise .crNumber) := by
  simp [exec, execCrw, hn]

theorem exec_crr_of_unassigned (hn : ctlName s.params cr = none) :
    exec (.crr d cr) s = .next (s.raise .crNumber) := by
  simp [exec, execCrr, hn]

theorem exec_crw_of_illegal {name : CtlName} (hn : ctlName s.params cr = some name)
    (hl : ctlLegal s.params name (s.getX d) = false) : exec (.crw d cr) s = .next (s.raise .crValue) := by
  simp [exec, execCrw, hn, hl]

end

/-- Settles O34, by whether the number is assigned and the value legal. -/
theorem controlRegisterAccess : Obligations.ControlRegisterAccess := by
  refine fun s d cr => ⟨fun hn => ?_, fun name hn => ⟨fun hl => ?_, fun hl => ?_, ?_⟩⟩
  · exact ⟨⟨_, exec_crw_of_unassigned hn, faultOf_raise s .crNumber⟩,
      _, exec_crr_of_unassigned hn, faultOf_raise s .crNumber⟩
  · exact ⟨_, exec_crw_of_illegal hn hl, faultOf_raise s .crValue⟩
  · exact ⟨_, exec_crw_of_legal hn hl, rfl, Ctl.get_set_self s.ctl name _, fun _ => Ctl.get_set_ne s.ctl _,
      rfl, rfl, fun _ => rfl, rfl, rfl, rfl, rfl, rfl⟩
  · exact ⟨_, exec_crr_of_assigned hn, rfl, onlyX_setX_done d _ s, s.getX_setX_self d _⟩

/-! ### Loads and stores inside memory -/

/-- R68: a range passes the check when its last halfword exists. -/
theorem State.rangeOk_succ_of_lt {s : State} {a k : Nat} (h : a + k < s.params.memSize) :
    s.rangeOk a (k + 1) = true :=
  rangeOk_iff_forall_lt.mpr fun _ hj => Nat.lt_of_le_of_lt (Nat.add_le_add_left (Nat.le_of_lt_succ hj) a) h

section
variable {s : State} {a : XReg} {base : Base}

theorem exec_pld_of_lt (d : CReg) (h : s.pixelAddr base a + 2 < s.params.memSize) :
    exec (.pld d a base) s = .next (s.setC d (s.pixelAt (s.pixelAddr base a))).done :=
  if_pos (State.rangeOk_succ_of_lt h)

theorem exec_pst_of_lt (d : CReg) (h : s.pixelAddr base a + 2 < s.params.memSize) :
    exec (.pst d a base) s = .next (s.storeHalves (s.pixelAddr base a) (s.getC d).halves).done :=
  if_pos (State.rangeOk_succ_of_lt h)

theorem exec_hld_of_lt (d : XReg) (h : s.halfAddr base a < s.params.memSize) :
    exec (.hld d a base) s = .next (s.setX d ((s.halfAt (s.halfAddr base a)).zeroExtend 32)).done :=
  if_pos (State.rangeOk_succ_of_lt h)

theorem exec_hst_of_lt (d : XReg) (h : s.halfAddr base a < s.params.memSize) :
    exec (.hst d a base) s = .next (s.storeHalves (s.halfAddr base a) [s.lo16 d]).done :=
  if_pos (State.rangeOk_succ_of_lt h)

end

/-- Settles O49: the last halfword addressed passes the range check, and the register written reads back. -/
theorem loadCommands : Obligations.LoadCommands := by
  intro s a base b hb
  obtain rfl : b = s.baseAddr base := by cases base <;> exact hb
  exact ⟨fun d h => ⟨_, exec_pld_of_lt d h, rfl, onlyC_setC_done d _ s, s.getC_setC_self d _⟩,
    fun d h => ⟨_, exec_hld_of_lt d h, rfl, onlyX_setX_done d _ s, s.getX_setX_self d _⟩⟩

/-- Reading back a channel of a stored pixel: red, green, blue in rising order (R64). -/
theorem State.halfAt_storeHalves_halves {s : State} (hwf : Mem.wf s.mem = true) (a : Nat) (v : Color) (ch : Chan) :
    (s.storeHalves a v.halves).halfAt (a + chanNum ch) = v.get ch := by
  have hlt : chanNum ch < v.halves.length := by cases ch <;> simp [chanNum, Color.halves]
  rw [s.halfAt_storeHalves_self hwf a hlt]
  cases ch <;> rfl

/-- Settles O50: both commands store a list of halfwords, which reads back and leaves every other byte. -/
theorem storeCommands : Obligations.StoreCommands := by
  intro s a base b hwf hb
  obtain rfl : b = s.baseAddr base := by cases base <;> exact hb
  refine ⟨fun d h => ?_, fun d h => ?_⟩
  · have hread := State.halfAt_storeHalves_halves hwf (s.pixelAddr base a) (s.getC d)
    exact ⟨_, exec_pst_of_lt d h, rfl, onlyStores_storeHalves_done s _ _, hread .red, hread .green, hread .blue⟩
  · have hread : (s.storeHalves (s.halfAddr base a) [s.lo16 d]).halfAt (s.halfAddr base a) = s.lo16 d :=
      s.halfAt_storeHalves_self hwf _ (vs := [s.lo16 d]) (j := 0) Nat.one_pos
    exact ⟨_, exec_hst_of_lt d h, rfl, onlyStores_storeHalves_done s _ _,
      (congrArg BitVec.toNat hread).trans (s.toNat_lo16 d)⟩

end Sys2Proof.Machine

/-! ### The latch -/

namespace Sys2Proof.Machine

open Sys2Proof.Safety Sys2Proof.Codec

/-- R317: with the latch set every word but URST is discarded, before it is decoded. -/
theorem present_eq_discard {s : State} {w : Word} (hflt : s.flt = true) (hw : w ≠ urstWord) :
    present w s = .next s.discard :=
  if_pos ⟨hflt, hw⟩

/-- Settles O7: presenting the word is the discard. -/
theorem latchedUnitDiscards : Obligations.LatchedUnitDiscards := fun _ _ _ hs hflt hw =>
  ⟨_, (step_move hs).trans (present_eq_discard hflt hw), rfl⟩

/-- The latch, its cause and every register are as before. -/
def SameUnit (s t : State) : Prop :=
  t.flt = s.flt ∧ t.fcause = s.fcause ∧ t.x = s.x ∧ t.c = s.c ∧ t.ctl = s.ctl

/-- R335, R342: the unit holds its state through every move of the host but a word and the reset input. -/
theorem MoveEffect.sameUnit {s t : State} {m : HostMove} (h : MoveEffect s m t) (hp : ∀ w, m ≠ .present w)
    (hr : m ≠ .resetInput) : SameUnit s t := by
  cases h with
  | discarded | illegal | executed => exact absurd rfl (hp _)
  | wasReset => exact absurd rfl hr
  | storedHalf | storedByte | timed => exact ⟨rfl, rfl, rfl, rfl, rfl⟩

/-- R318: with the latch set a move other than URST and the reset input leaves the unit as it is. -/
theorem runMove_sameUnit_of_latched {s t : State} {m : HostMove} (hflt : s.flt = true) (hu : m ≠ .present urstWord)
    (hr : m ≠ .resetInput) (h : runMove m s = .next t) : SameUnit s t := by
  by_cases hp : ∃ w, m = .present w
  · obtain ⟨w, rfl⟩ := hp
    cases (present_eq_discard hflt fun e => hu (congrArg _ e)).symm.trans h
    exact ⟨rfl, rfl, rfl, rfl, rfl⟩
  · exact (runMove_effect h).sameUnit (not_exists.mp hp) hr

/-- Settles O8: the two ways out are the resets of O9, and no other move changes the unit. -/
theorem latchHoldsUntilReset : Obligations.LatchHoldsUntilReset := by
  obtain ⟨-, hurst, hinput⟩ := resetLeavesTheTable
  refine fun s hflt => ⟨fun rest hs => ?_, fun t hmove h => ?_⟩
  · obtain hs | hs := hs
    · obtain ⟨t, ht, htable, -, hmem, -⟩ := hurst { s with host := rest }
      have hrun : step s = exec .urst { s with host := rest } :=
        (step_move hs).trans (present_eq_exec (.inr rfl) (decode_encode .urst))
      exact ⟨t, hrun.trans ht, htable, hmem⟩
    · obtain ⟨t, ht, htable, hmem, -⟩ := hinput s rest hs
      exact ⟨t, ht, htable, hmem⟩
  · suffices hsame : SameUnit s t from ⟨hsame.1.trans hflt, hsame.2⟩
    cases hs : s.host with
    | nil =>
      cases (step_idle hs).symm.trans h
      exact ⟨rfl, rfl, rfl, rfl, rfl⟩
    | cons m rest =>
      obtain ⟨hu, hr⟩ := hmove rest
      rw [step_move hs] at h
      exact runMove_sameUnit_of_latched (s := { s with host := rest }) hflt (fun e => hu (e ▸ hs))
        (fun e => hr (e ▸ hs)) h

end Sys2Proof.Machine

/-! ### The causes of each command -/

namespace Sys2Proof.Machine

open Sys2Proof.Safety

/-- A command answered OK, or raised a cause that R311 gives it. -/
inductive Reports (i : Instr) (s : State) : State → Prop
  | ok {t : State} {data : Word} (h : t.resp = some ⟨.ok, data⟩) : Reports i s t
  | raised (c : Cause) (h : causeCode c ∈ faultCodes i) : Reports i s (s.raise c)

/-- The range and overlap checks are among the causes of the command (R68, R76). -/
def MayFailRanges (i : Instr) : Prop := causeCode .memRange ∈ faultCodes i ∧ causeCode .overlap ∈ faultCodes i

theorem mayFailRanges_of_faultCodes_eq {i : Instr} (h : faultCodes i = [causeCode .memRange, causeCode .overlap]) :
    MayFailRanges i := by
  simp [MayFailRanges, h]

section
variable {i : Instr} {s : State}

/-- A checked store reports what its check does. -/
theorem Reports.of_storeUnless {c : Option Cause} (hc : ∀ e, c = some e → causeCode e ∈ faultCodes i) (vs : List Half) :
    Reports i s (s.storeUnless c vs) := by
  cases c with
  | none => exact .ok rfl
  | some e => exact .raised e (hc e rfl)

theorem Reports.of_vectorCheck (hi : MayFailRanges i) (m n : Nat) (vs : List Half) :
    Reports i s (s.storeUnless (s.vectorCheck m n) vs) := by
  refine .of_storeUnless (fun e he => ?_) vs
  obtain h | h | h := s.vectorCheck_cases m n <;> cases h.symm.trans he
  · exact hi.1
  · exact hi.2

theorem Reports.of_strictCheck (hi : MayFailRanges i) (n : Nat) (vs : List Half) :
    Reports i s (s.storeUnless (s.strictCheck n) vs) := by
  refine .of_storeUnless (fun e he => ?_) vs
  obtain h | h | h := s.strictCheck_cases n <;> cases h.symm.trans he
  · exact hi.1
  · exact hi.2

/-- The pipeline adds `EDGE_RANGE`, and only when a radius is too large (R207, R209). -/
theorem Reports.of_convolve (hi : MayFailRanges i) {u : ConvSetup}
    (hr : radiusTooLarge u = true → causeCode .edgeRange ∈ faultCodes i) : Reports i s (convolve u s) := by
  by_cases hn : u.sizeX * u.sizeY = 0
  · exact convolve_of_empty (s := s) hn ▸ .ok rfl
  · cases hu : radiusTooLarge u with
    | true => exact convolve_of_radiusTooLarge (s := s) hn hu ▸ .raised _ (hr hu)
    | false => exact convolve_eq_storeUnless (s := s) hn hu ▸ .of_strictCheck hi _ _

/-- EDGE reports a fault of `resolve`, or `MEM_RANGE` for a sample outside memory (R182). -/
theorem exists_exec_edge_reports (d ox oy fx fy : XReg) (ch : Chan) :
    ∃ t, exec (.edge d ox oy fx fy ch) s = .next t ∧ Reports (.edge d ox oy fx fy ch) s t := by
  have hsound : (s.edgeResolved ox oy fx fy).Sound s.ctl.sizeX.toNat s.ctl.sizeY.toNat := resolve_sound ..
  generalize hr : s.edgeResolved ox oy fx fy = r at hsound
  cases hsound with
  | twoAxis => exact ⟨_, exec_edge_of_fault hr, .raised _ (.head _)⟩
  | range => exact ⟨_, exec_edge_of_fault hr, .raised _ (.tail _ (.head _))⟩
  | value v => exact ⟨_, exec_edge_of_value hr, .ok rfl⟩
  | coord =>
    rw [exec_edge_of_coord hr rfl]
    exact exists_next_ite (.ok rfl) (.raised _ (.tail _ (.tail _ (.head _))))

end

/-- Every command reports. -/
theorem exists_exec_reports (i : Instr) (s : State) : ∃ t, exec i s = .next t ∧ Reports i s t := by
  cases i with
  | nop | urst | xrd a => exact ⟨_, rfl, .ok rfl⟩
  | xli d imm | xlh d imm | xmov d a | cget d a ch | ceq d a b => exact ⟨_, rfl, .ok rfl⟩
  | cli d ch imm | cmov d a | cset d a ch => exact ⟨_, rfl, .ok rfl⟩
  | cadd d a b | csub d a b | cmul d a b | cscale d a f | clerp d a b t => exact ⟨_, rfl, .ok rfl⟩
  | crw d cr =>
    cases hn : ctlName s.params cr with
    | none => exact ⟨_, exec_crw_of_unassigned hn, .raised _ (.head _)⟩
    | some name =>
      cases hl : ctlLegal s.params name (s.getX d) with
      | true => exact ⟨_, exec_crw_of_legal hn hl, .ok rfl⟩
      | false => exact ⟨_, exec_crw_of_illegal hn hl, .raised _ (.tail _ (.head _))⟩
  | crr d cr =>
    cases hn : ctlName s.params cr with
    | none => exact ⟨_, exec_crr_of_unassigned hn, .raised _ (.head _)⟩
    | some name => exact ⟨_, exec_crr_of_assigned hn, .ok rfl⟩
  | index d n col ring => exact exists_next_ite (.ok rfl) (.raised _ (.head _))
  | edge d ox oy fx fy ch => exact exists_exec_edge_reports d ox oy fx fy ch
  | pld d a base | pst d a base | hld d a base | hst d a base => exact exists_next_ite (.ok rfl) (.raised _ (.head _))
  | conv =>
    exact ⟨_, exec_conv s, .of_convolve ⟨.tail _ (.head _), .tail _ (.tail _ (.head _))⟩ fun _ => .head _⟩
  | blur => exact ⟨_, exec_blur s,
      .of_convolve (mayFailRanges_of_faultCodes_eq rfl) fun hr =>
        absurd hr (Bool.eq_false_iff.mp (radiusTooLarge_blurSetup s))⟩
  | vtile n m k =>
    exact exists_next_ite (.raised _ (.head _)) (.of_vectorCheck ⟨.tail _ (.head _), .tail _ (.tail _ (.head _))⟩ _ _ _)
  | vfill d n =>
    by_cases hr : s.rangeOk s.dstAddr (3 * (s.getX n).toNat) = true
    · exact ⟨_, exec_vfill_of_rangeOk s n d hr, .ok rfl⟩
    · exact ⟨_, exec_vfill_of_not_rangeOk s n d hr, .raised _ (.head _)⟩
  | vcopy n k | vadd n | vfade n amt k | vbrt n amt k | vblur1 n amt k =>
    exact ⟨_, rfl, .of_vectorCheck (mayFailRanges_of_faultCodes_eq rfl) _ _ _⟩

/-- Settles O14: a command that answers FAULT raised a cause of its row of R311. -/
theorem commandsRaiseOnlyTheirCauses : Obligations.CommandsRaiseOnlyTheirCauses := by
  intro i s t r h hr hf
  obtain ⟨t', ht', hrep⟩ := exists_exec_reports i s
  cases ht'.symm.trans h
  cases hrep with
  | ok hok =>
    cases hok.symm.trans hr
    cases hf
  | raised c hc =>
    cases hr
    exact ⟨hc, rfl, rfl⟩

end Sys2Proof.Machine

/-! ### The Frame Timer -/

namespace Sys2Proof.Machine

/-- The state after calls of `check()`: the moves left, the Frame Timer and the last answer (R336). -/
def State.frameChecked (s : State) (rest : List HostMove) (timer : FrameTimer) (answer : Bool) : State :=
  { s with host := rest, env := { s.env with frame := timer, answer := some answer } }

section
variable {s : State} {rest : List HostMove}

/-- `check()` in "ready" (R336). -/
theorem step_frameCheck_of_le (hs : s.host = .frameCheck :: rest) (h : s.env.frame.target ≤ s.env.frame.count) :
    step s = .next (s.frameChecked rest s.env.frame true) :=
  (step_move hs).trans (if_pos h)

/-- `check()` in "waiting" (R336), with a count that `TIMER_WIDTH` bits hold (log 11). -/
theorem step_frameCheck_of_lt (hs : s.host = .frameCheck :: rest) (h : s.env.frame.count < s.env.frame.target)
    (hw : s.env.frame.count + 1 < 2 ^ s.params.timerWidth) :
    step s = .next (s.frameChecked rest ⟨s.env.frame.count + 1, s.env.frame.target⟩ false) :=
  (step_move hs).trans ((if_neg h.not_ge).trans (if_pos hw))

/-- The two in one, for a count that has not passed the target: it goes up to the target and no further. -/
theorem step_frameCheck {count target : Nat} (hs : s.host = .frameCheck :: rest) (hf : s.env.frame = ⟨count, target⟩)
    (hle : count ≤ target) (hw : target < 2 ^ s.params.timerWidth) :
    step s = .next (s.frameChecked rest ⟨min (count + 1) target, target⟩ (decide (target ≤ count))) := by
  obtain hlt | rfl := hle.lt_or_eq
  · rw [step_frameCheck_of_lt hs (by rwa [hf]) (by rw [hf]; exact Nat.lt_of_le_of_lt hlt hw), hf,
      min_eq_left (Nat.succ_le_of_lt hlt), decide_eq_false hlt.not_ge]
  · rw [step_frameCheck_of_le hs (by rw [hf]), hf, min_eq_right (Nat.le_succ count), decide_eq_true (Nat.le_refl count)]

end

/-- A run whose first step has a next state goes on from there. -/
theorem core_run_succ {s t : State} (h : step s = .next t) (k : Nat) : core.run (k + 1) s = core.run k t := by
  have hcore : core.step s = .next t := h
  simp only [Host.Core.run, hcore]

/-- R337, from any count that has not passed the target. -/
theorem core_run_frameChecks (k : Nat) (rest : List HostMove) (target : Nat) : ∀ (s : State) (count : Nat),
    s.env.frame = ⟨count, target⟩ → count ≤ target → target < 2 ^ s.params.timerWidth →
    s.host = List.replicate (k + 1) .frameCheck ++ rest →
      core.run (k + 1) s =
        .next (s.frameChecked rest ⟨min (count + (k + 1)) target, target⟩ (decide (target ≤ count + k))) := by
  induction k with
  | zero =>
    intro s count hf hle hw hs
    exact core_run_succ (step_frameCheck hs hf hle hw) 0
  | succ k ih =>
    intro s count hf hle hw hs
    have hcount : min (min (count + 1) target + (k + 1)) target = min (count + (k + 1 + 1)) target := by omega
    have hready : target ≤ min (count + 1) target + k ↔ target ≤ count + (k + 1) := by omega
    have hfirst := step_frameCheck (rest := List.replicate (k + 1) .frameCheck ++ rest) hs hf hle hw
    rw [← hcount, ← decide_eq_decide.mpr hready]
    exact (core_run_succ hfirst (k + 1)).trans (ih _ _ rfl (min_le_right _ _) hw rfl)

/-- Settles O58: one call each way, and the run from `count = 0`. -/
theorem frameTimerCountsToTarget : Obligations.FrameTimerCountsToTarget := by
  refine ⟨rfl, fun s rest hs => ⟨step_frameCheck_of_le hs, step_frameCheck_of_lt hs⟩, fun s rest hs => step_move hs,
    fun s rest target hs ht => (step_move hs).trans (if_pos ht), fun s k target rest hf ht hs => ?_⟩
  have hrun := core_run_frameChecks k rest target s 0 hf (Nat.zero_le target) ht hs
  rwa [Nat.zero_add, Nat.zero_add] at hrun

end Sys2Proof.Machine

/-! ### The Interval Timer -/

namespace Sys2Proof.Machine

/-- What `check()` answers where its rule says (R338, R340). -/
theorem intervalReady_iff {s : State} (hw : s.env.wraps = s.env.interval.startWraps)
    (hb : s.env.interval.duration < s.params.durationBound) :
    intervalReady s = true ↔
      (s.env.interval.duration : Int) ≤ (s.env.clock.toNat : Int) - s.env.interval.start.toNat := by
  rw [intervalReady, if_pos ⟨hw, hb⟩, decide_eq_true_iff]

/-- `check()` (R338). -/
theorem step_intervalCheck {s : State} {rest : List HostMove} (hs : s.host = .intervalCheck :: rest) :
    step s = .next { s with host := rest, env := { s.env with answer := some (intervalReady s) } } :=
  step_move hs

/-- The clock and the count of its wraps together advance by the time that passed (R339; log 12). -/
theorem time_elapse (wraps : Nat) (clock : Word) (us : Nat) :
    (wraps + (clock.toNat + us) / 2 ^ 32) * 2 ^ 32 + (BitVec.ofNat 32 (clock.toNat + us)).toNat =
      wraps * 2 ^ 32 + clock.toNat + us := by
  rw [BitVec.toNat_ofNat]
  omega

/-- Settles O59: every move is its equation; the answer does not depend on the answer before, so it repeats. -/
theorem intervalTimerReads : Obligations.IntervalTimerReads := by
  refine fun s rest => ⟨fun hs => ?_, fun hs => ?_, fun hs => step_move hs, fun d hs => step_move hs, fun us hs => ?_⟩
  · exact ⟨_, step_intervalCheck hs, intervalReady_iff⟩
  · exact ⟨_, _, _, step_intervalCheck hs, rfl, step_intervalCheck rfl, rfl⟩
  · exact ⟨_, step_move hs, rfl, time_elapse s.env.wraps s.env.clock us⟩

end Sys2Proof.Machine

/-! ### The reset input -/

namespace Sys2Proof.Machine

open Sys2Proof.Codec

/-- URST is executed whether the latch is set or clear (R317, R351). -/
theorem step_urst {s : State} {rest : List HostMove} (hs : s.host = .present urstWord :: rest) :
    step s = .next (State.resetUnit { s with host := rest }).done :=
  (step_move hs).trans (present_eq_exec (.inr rfl) (decode_encode .urst))

/-- The reset input resets the unit and leaves no response (R350; log 7). -/
theorem step_resetInput {s : State} {rest : List HostMove} (hs : s.host = .resetInput :: rest) :
    step s = .next { State.resetUnit { s with host := rest } with resp := none } :=
  step_move hs

/-- Settles O10: both steps reset the unit, and the response is all that URST adds. -/
theorem resetInputIsUrstWithoutResponse : Obligations.ResetInputIsUrstWithoutResponse := fun _ _ =>
  ⟨_, step_urst rfl, rfl, step_resetInput rfl⟩

end Sys2Proof.Machine
